-- ==== Sys2Proof/Word.lean ====
section
/-! DEFINITION. The bit-vector types of the spec's notation (00_scope.md R7). -/

namespace Sys2Proof

/-- A byte: the unit memory is addressed in (R50). -/
abbrev Byte := BitVec 8

/-- A quadword: a general-purpose register, an address (R20, R50). -/
abbrev QWord := BitVec 64

/-- A double quadword: the XMM part of a vector register (R24). -/
abbrev DQWord := BitVec 128

/-- A whole vector register of the widest kind, YMM (R24). -/
abbrev YWord := BitVec 256

/-- The number of a general-purpose or vector register, 0 to 15 (R20, R24). -/
abbrev RegNum := BitVec 4

/-- The number of an MMX register, 0 to 7 (R26, R107). -/
abbrev MmxNum := BitVec 3

end Sys2Proof
end

