-- ==== Sys2Proof/Config.lean ====
section
/-! DEFINITION. What the implementation or the launch fixes for a run (00_scope.md R6), as plain data, and
the one value the spec leaves to a draw. -/

namespace Sys2Proof

/-- MODE (R6, R37): the two modes the spec covers; the others are refused (D2). -/
inductive Mode where
  /-- 64-bit mode. -/
  | mode64
  /-- 32-bit protected or compatibility mode with 32-bit code. -/
  | mode32
deriving DecidableEq, Repr

/-- The CPUID feature flags of the opcode tables (R2, R36). -/
inductive Feature where
  | mmx | sse | sse2 | sse3 | sse41 | avx | avx2
deriving DecidableEq, Repr

/-- One Boolean per CPUID feature flag (R36). -/
structure CpuId where
  mmx : Bool
  sse : Bool
  sse2 : Bool
  sse3 : Bool
  sse41 : Bool
  avx : Bool
  avx2 : Bool
deriving DecidableEq, Repr

/-- The six segment registers (R38). -/
inductive Seg where
  | es | cs | ss | ds | fs | gs
deriving DecidableEq, Repr

/-- What the spec uses of a segment register: the hidden base and limit (R38, R60), and the two
conditions of a 32-bit segment that R263 names, a read-only segment and a null selector. -/
structure Segment where
  base : QWord
  limit : BitVec 32
  writable : Bool
  null : Bool
deriving DecidableEq, Repr

/-- The segment a launch has unless it says otherwise: flat (R60, D6). -/
def Segment.flat : Segment := { base := 0, limit := 0xFFFFFFFF, writable := true, null := false }

/-- The hidden parts of the six segment registers, SegBase(s) among them (R38, R60). -/
structure Segments where
  es : Segment
  cs : Segment
  ss : Segment
  ds : Segment
  fs : Segment
  gs : Segment
deriving DecidableEq, Repr

/-- The memory types the source names (R6, R13). -/
inductive MemType where
  | wb | wc | uc | wp | wt
deriving DecidableEq, Repr

/-- A range of linear addresses and its memory type (R6, D24). -/
structure MemTypeRegion where
  base : QWord
  size : Nat
  type : MemType
deriving DecidableEq, Repr

/-- The kind of a memory access (R6). -/
inductive AccessKind where
  | read | write
deriving DecidableEq, Repr

/-- What the translation and protection oracle answers for a byte (R6, R61): a physical location, a
fault, or that the address belongs to a device (R65). DESIGN CHOICE: the spec gives a location and an error code
no width; the model takes 64 and 32 bits (assumption log 5). -/
inductive AccessAnswer where
  /-- "ok": the byte stands at this location; in a rule, the location of the rule's first byte. -/
  | ok (phys : QWord)
  /-- A page fault with this error code and faulting linear address, both part of the answer (R265); in a rule, the
  faulting address of the rule's first byte. -/
  | pf (code : BitVec 32) (addr : QWord)
  /-- A general-protection fault (R6). -/
  | gp
  /-- A stack-segment fault (R6). -/
  | ss
  /-- Device space (R65, D5). -/
  | device
deriving DecidableEq, Repr

/-- One rule of the oracle Access: the linear addresses it covers, and the kind of access and the
privilege level it is for, `none` standing for every one (R6, R61, R285). -/
structure AccessRule where
  base : QWord
  size : Nat
  kind : Option AccessKind
  cpl : Option (Fin 4)
  answer : AccessAnswer
deriving DecidableEq, Repr

/-- The configuration of a run (R6, R42): no instruction changes it. Assumption log 3. -/
structure Config where
  mode : Mode
  cpuid : CpuId
  laBits : Nat
  seg : Segments
  memTypes : List MemTypeRegion
  access : List AccessRule
deriving DecidableEq, Repr

/-- Every segment flat (R60, D6). -/
def Segments.flat : Segments :=
  { es := Segment.flat, cs := Segment.flat, ss := Segment.flat, ds := Segment.flat, fs := Segment.flat
    gs := Segment.flat }

/-- The configuration with the defaults of R6: Mode64, LA_BITS = 48, flat segments, WB everywhere,
Access "ok, identity"; DESIGN CHOICE: every feature present (assumption log 1). -/
def Config.launch : Config :=
  { mode := .mode64
    cpuid := { mmx := true, sse := true, sse2 := true, sse3 := true, sse41 := true, avx := true, avx2 := true }
    laBits := 48
    seg := Segments.flat
    memTypes := []
    access := [] }

/-- AC_ON_MOVDQU (R6, R56, D16): the outcome of the n-th draw, `true` for #AC(0). A FREE VALUE: nothing
is known of it, so a statement about it holds for both outcomes. Assumption log 4. -/
opaque Config.acDraw : Nat → Bool

/-- The processor signature that EDX holds after RESET (R44), which the spec does not give: a FREE VALUE.
Assumption log 20. -/
opaque Config.processorSignature : BitVec 32

end Sys2Proof
end

