-- ==== Sys2Proof/Syntax.lean ====
section
/-! DEFINITION. The syntax of the 64 rows (30_encoding.md R111): the parts of an encoding that a row leaves
free (R80 to R107), and one constructor of `Instr` per row of opcode_table.json. -/

namespace Sys2Proof

/-- A legacy prefix byte (R81). -/
inductive Prefix where
  /-- F0. -/
  | lock
  /-- F2. -/
  | repne
  /-- F3. -/
  | rep
  /-- 66. -/
  | opSize
  /-- 67. -/
  | addrSize
  /-- 26, 2E, 36, 3E, 64, 65. -/
  | seg (s : Seg)
deriving DecidableEq, Repr

/-- I.pp: the mandatory or SIMD prefix of a row (R12, R82, R97). -/
inductive SimdPrefix where
  | none | p66 | pF3 | pF2
deriving DecidableEq, Repr

/-- I.map: the opcode map of a row (R12, R83); the map 0F3A holds no row. -/
inductive OpMap where
  | m0F | m0F38
deriving DecidableEq, Repr

/-- The bits of a REX prefix (R84). -/
structure Rex where
  w : Bool
  r : Bool
  x : Bool
  b : Bool
deriving DecidableEq, Repr

/-- The two- or three-byte VEX prefix, less vvvv and what the row fixes; R, X, B are the bits themselves, not
the complements that the bytes hold (R92, R93). -/
inductive VexForm where
  | two (r : Bool)
  | three (r x b w : Bool)
deriving DecidableEq, Repr

/-- The displacement of a 32- or 64-bit addressing form, which fixes ModRM.mod (R87). -/
inductive Disp where
  | none
  | d8 (v : BitVec 8)
  | d32 (v : BitVec 32)
deriving DecidableEq, Repr

/-- The displacement of a 16-bit addressing form, which fixes ModRM.mod (R87). -/
inductive Disp16 where
  | none
  | d8 (v : BitVec 8)
  | d16 (v : BitVec 16)
deriving DecidableEq, Repr

/-- A memory operand as ModRM, SIB and the displacement give it (R85 to R87, R100 to R102); register numbers
are the three bits of the field, to be extended by REX or VEX. -/
inductive MemOp where
  /-- ModRM.rm names the base; rm = 100b is not this form, nor rm = 101b without a displacement. -/
  | base (rm : BitVec 3) (d : Disp)
  /-- A SIB byte with a base; base = 101b without a displacement is not this form. -/
  | sib (scale : BitVec 2) (index base : BitVec 3) (d : Disp)
  /-- A SIB byte with mod = 00b and base = 101b: no base and a disp32. -/
  | sibNoBase (scale : BitVec 2) (index : BitVec 3) (d : BitVec 32)
  /-- mod = 00b, rm = 101b: RIP-relative in Mode64, absolute in Mode32. -/
  | disp32 (d : BitVec 32)
  /-- A 16-bit form with a base; rm = 110b without a displacement is not this form. -/
  | base16 (rm : BitVec 3) (d : Disp16)
  /-- The 16-bit form mod = 00b, rm = 110b: an absolute disp16. -/
  | disp16 (d : BitVec 16)
deriving DecidableEq, Repr

/-- The ModRM:r/m field of a register-only row (mod = 11b). -/
abbrev RegField := BitVec 3

/-- The ModRM:r/m operand of a row that takes both kinds: a register (mod = 11b) or memory (R85). -/
inductive RM where
  | reg (n : RegField)
  | mem (m : MemOp)
deriving DecidableEq, Repr

/-- A legacy-format instruction, less what its row fixes (R80, R81, R84, R85): the prefixes in the order they
stand, the mandatory one among them; REX; the ModRM:reg field; and the r/m operand, of type `RM` where the row
takes both kinds, `RegField` where it takes a register only, `MemOp` where it takes memory only. -/
structure Legacy (α : Type) where
  prefixes : List Prefix
  rex : Option Rex
  reg : BitVec 3
  rm : α
deriving DecidableEq, Repr

/-- A VEX-format instruction, less what its row fixes (R80, R91 to R93). -/
structure Vex (α : Type) where
  prefixes : List Prefix
  form : VexForm
  reg : BitVec 3
  rm : α
deriving DecidableEq, Repr

/-- The same encoding with its r/m operand seen another way. -/
def Legacy.map {α β : Type} (f : α → β) (e : Legacy α) : Legacy β :=
  { prefixes := e.prefixes, rex := e.rex, reg := e.reg, rm := f e.rm }

/-- The same encoding with its r/m operand seen another way. -/
def Vex.map {α β : Type} (f : α → β) (e : Vex α) : Vex β :=
  { prefixes := e.prefixes, form := e.form, reg := e.reg, rm := f e.rm }

/-- The 64 rows of R111, one constructor each, in the table's order. `e` is the encoding; `v` is I.v, the
register number that VEX.vvvv encodes, in the rows marked NDS (R95 (a)); in the other VEX rows vvvv is 1111b and
the decoder refuses every other value (R114). -/
inductive Instr where
  /-- Row 1: MOVDDUP xmm1, xmm2/m64 (R130). -/
  | movddup (e : Legacy RM)
  /-- Row 2: VMOVDDUP xmm1, xmm2/m64 (R131). -/
  | vmovddupX (e : Vex RM)
  /-- Row 3: VMOVDDUP ymm1, ymm2/m256 (R132). -/
  | vmovddupY (e : Vex RM)
  /-- Row 4: MOVDQA xmm1, xmm2/m128 (R140). -/
  | movdqaLoad (e : Legacy RM)
  /-- Row 5: MOVDQA xmm2/m128, xmm1 (R141). -/
  | movdqaStore (e : Legacy RM)
  /-- Row 6: VMOVDQA xmm1, xmm2/m128 (R142). -/
  | vmovdqaXLoad (e : Vex RM)
  /-- Row 7: VMOVDQA xmm2/m128, xmm1 (R143). -/
  | vmovdqaXStore (e : Vex RM)
  /-- Row 8: VMOVDQA ymm1, ymm2/m256 (R144). -/
  | vmovdqaYLoad (e : Vex RM)
  /-- Row 9: VMOVDQA ymm2/m256, ymm1 (R145). -/
  | vmovdqaYStore (e : Vex RM)
  /-- Row 10: MOVDQU xmm1, xmm2/m128 (R150). -/
  | movdquLoad (e : Legacy RM)
  /-- Row 11: MOVDQU xmm2/m128, xmm1 (R151). -/
  | movdquStore (e : Legacy RM)
  /-- Row 12: VMOVDQU xmm1, xmm2/m128 (R152). -/
  | vmovdquXLoad (e : Vex RM)
  /-- Row 13: VMOVDQU xmm2/m128, xmm1 (R153). -/
  | vmovdquXStore (e : Vex RM)
  /-- Row 14: VMOVDQU ymm1, ymm2/m256 (R154). -/
  | vmovdquYLoad (e : Vex RM)
  /-- Row 15: VMOVDQU ymm2/m256, ymm1 (R155). -/
  | vmovdquYStore (e : Vex RM)
  /-- Row 16: MOVDQ2Q mm, xmm (R160). -/
  | movdq2q (e : Legacy RegField)
  /-- Row 17: MOVHLPS xmm1, xmm2 (R165). -/
  | movhlps (e : Legacy RegField)
  /-- Row 18: VMOVHLPS xmm1, xmm2, xmm3 (R166). -/
  | vmovhlps (v : RegNum) (e : Vex RegField)
  /-- Row 19: MOVHPD xmm, m64 (R167). -/
  | movhpdLoad (e : Legacy MemOp)
  /-- Row 20: MOVHPD m64, xmm (R168). -/
  | movhpdStore (e : Legacy MemOp)
  /-- Row 21: VMOVHPD xmm2, xmm1, m64 (R169). -/
  | vmovhpdLoad (v : RegNum) (e : Vex MemOp)
  /-- Row 22: VMOVHPD m64, xmm1 (R170). -/
  | vmovhpdStore (e : Vex MemOp)
  /-- Row 23: MOVHPS xmm, m64 (R171). -/
  | movhpsLoad (e : Legacy MemOp)
  /-- Row 24: MOVHPS m64, xmm (R172). -/
  | movhpsStore (e : Legacy MemOp)
  /-- Row 25: VMOVHPS xmm2, xmm1, m64 (R173). -/
  | vmovhpsLoad (v : RegNum) (e : Vex MemOp)
  /-- Row 26: VMOVHPS m64, xmm1 (R174). -/
  | vmovhpsStore (e : Vex MemOp)
  /-- Row 27: MOVLHPS xmm1, xmm2 (R175). -/
  | movlhps (e : Legacy RegField)
  /-- Row 28: VMOVLHPS xmm1, xmm2, xmm3 (R176). -/
  | vmovlhps (v : RegNum) (e : Vex RegField)
  /-- Row 29: MOVLPD xmm, m64 (R177). -/
  | movlpdLoad (e : Legacy MemOp)
  /-- Row 30: MOVLPD m64, xmm (R178). -/
  | movlpdStore (e : Legacy MemOp)
  /-- Row 31: VMOVLPD xmm2, xmm1, m64 (R179). -/
  | vmovlpdLoad (v : RegNum) (e : Vex MemOp)
  /-- Row 32: VMOVLPD m64, xmm1 (R180). -/
  | vmovlpdStore (e : Vex MemOp)
  /-- Row 33: MOVLPS xmm, m64 (R181). -/
  | movlpsLoad (e : Legacy MemOp)
  /-- Row 34: MOVLPS m64, xmm (R182). -/
  | movlpsStore (e : Legacy MemOp)
  /-- Row 35: VMOVLPS xmm2, xmm1, m64 (R183). -/
  | vmovlpsLoad (v : RegNum) (e : Vex MemOp)
  /-- Row 36: VMOVLPS m64, xmm1 (R184). -/
  | vmovlpsStore (e : Vex MemOp)
  /-- Row 37: MOVMSKPD reg, xmm (R200). -/
  | movmskpd (e : Legacy RegField)
  /-- Row 38: VMOVMSKPD reg, xmm2 (R201). -/
  | vmovmskpdX (e : Vex RegField)
  /-- Row 39: VMOVMSKPD reg, ymm2 (R202). -/
  | vmovmskpdY (e : Vex RegField)
  /-- Row 40: MOVMSKPS reg, xmm (R203). -/
  | movmskps (e : Legacy RegField)
  /-- Row 41: VMOVMSKPS reg, xmm2 (R204). -/
  | vmovmskpsX (e : Vex RegField)
  /-- Row 42: VMOVMSKPS reg, ymm2 (R205). -/
  | vmovmskpsY (e : Vex RegField)
  /-- Row 43: MOVNTDQA xmm1, m128 (R210). -/
  | movntdqa (e : Legacy MemOp)
  /-- Row 44: VMOVNTDQA xmm1, m128 (R211). -/
  | vmovntdqaX (e : Vex MemOp)
  /-- Row 45: VMOVNTDQA ymm1, m256 (R212). -/
  | vmovntdqaY (e : Vex MemOp)
  /-- Row 46: MOVNTDQ m128, xmm (R213). -/
  | movntdq (e : Legacy MemOp)
  /-- Row 47: VMOVNTDQ m128, xmm1 (R214). -/
  | vmovntdqX (e : Vex MemOp)
  /-- Row 48: VMOVNTDQ m256, ymm1 (R215). -/
  | vmovntdqY (e : Vex MemOp)
  /-- Row 49: MOVNTI m32, r32 (R216). -/
  | movnti32 (e : Legacy MemOp)
  /-- Row 50: MOVNTI m64, r64 (R217). -/
  | movnti64 (e : Legacy MemOp)
  /-- Row 51: MOVNTPD m128, xmm (R218). -/
  | movntpd (e : Legacy MemOp)
  /-- Row 52: VMOVNTPD m128, xmm1 (R219). -/
  | vmovntpdX (e : Vex MemOp)
  /-- Row 53: VMOVNTPD m256, ymm1 (R220). -/
  | vmovntpdY (e : Vex MemOp)
  /-- Row 54: MOVNTPS m128, xmm (R221). -/
  | movntps (e : Legacy MemOp)
  /-- Row 55: VMOVNTPS m128, xmm1 (R222). -/
  | vmovntpsX (e : Vex MemOp)
  /-- Row 56: VMOVNTPS m256, ymm1 (R223). -/
  | vmovntpsY (e : Vex MemOp)
  /-- Row 57: MOVNTQ m64, mm (R224). -/
  | movntq (e : Legacy MemOp)
  /-- Row 58: MOVQ mm, mm/m64 (R240). -/
  | movqMmLoad (e : Legacy RM)
  /-- Row 59: MOVQ mm/m64, mm (R241). -/
  | movqMmStore (e : Legacy RM)
  /-- Row 60: MOVQ xmm1, xmm2/m64 (R242). -/
  | movqXmmLoad (e : Legacy RM)
  /-- Row 61: VMOVQ xmm1, xmm2 (R243). -/
  | vmovqReg (e : Vex RegField)
  /-- Row 62: VMOVQ xmm1, m64 (R244). -/
  | vmovqLoad (e : Vex MemOp)
  /-- Row 63: MOVQ xmm2/m64, xmm1 (R245). -/
  | movqXmmStore (e : Legacy RM)
  /-- Row 64: VMOVQ xmm1/m64, xmm2 (R246). -/
  | vmovqStore (e : Vex RM)
deriving DecidableEq, Repr

end Sys2Proof
end

