-- ==== Sys2Proof/WellFormed.lean ====
section
/-! DEFINITION. Which instructions have an encoding the model accepts (30_encoding.md R84 to R87, R92 to R98,
R111, R117), in each mode. -/

namespace Sys2Proof

/-- Whether a prefix can be a mandatory one (R82). -/
def Prefix.isSimd (p : Prefix) : Bool :=
  match p with
  | .opSize | .rep | .repne => true
  | .lock | .addrSize | .seg _ => false

/-- Whether a prefix is a segment override (R81). -/
def Prefix.isSeg (p : Prefix) : Bool :=
  match p with
  | .seg _ => true
  | .lock | .repne | .rep | .opSize | .addrSize => false

/-- The prefixes that a row's I.pp requires, exactly once (R82, R117). -/
def SimdPrefix.required (pp : SimdPrefix) : List Prefix :=
  match pp with
  | .none => []
  | .p66 => [.opSize]
  | .pF3 => [.rep]
  | .pF2 => [.repne]

/-- R117: at most one segment override, at most one 67, the mandatory prefix exactly once, no LOCK. -/
def wfPrefixes (pp : SimdPrefix) (ps : List Prefix) : Bool :=
  decide ((ps.filter Prefix.isSeg).length ≤ 1) && decide (ps.count .addrSize ≤ 1) &&
    decide (ps.filter Prefix.isSimd = pp.required) && decide (Prefix.lock ∉ ps)

/-- Whether an instruction with these prefixes uses 16-bit addressing: Mode32 with 67 (R103). -/
def is16 (m : Mode) (ps : List Prefix) : Bool :=
  decide (m = .mode32) && decide (Prefix.addrSize ∈ ps)

/-- A memory operand is one of the forms of its addressing (R85 to R87, R102). -/
def wfMem (a16 : Bool) (op : MemOp) : Bool :=
  match op with
  | .base rm d => !a16 && decide (rm ≠ 4) && (decide (rm ≠ 5) || decide (d ≠ .none))
  | .sib _ _ bs d => !a16 && (decide (bs ≠ 5) || decide (d ≠ .none))
  | .sibNoBase _ _ _ => !a16
  | .disp32 _ => !a16
  | .base16 rm d => a16 && (decide (rm ≠ 6) || decide (d ≠ .none))
  | .disp16 _ => a16

/-- A register operand needs nothing; a memory operand is well formed. -/
def wfRM (a16 : Bool) (rm : RM) : Bool :=
  match rm with
  | .reg _ => true
  | .mem op => wfMem a16 op

/-- A legacy encoding is one R117 accepts: its prefixes, REX in Mode64 only (R84), its r/m operand. -/
def wfLegacy (m : Mode) (pp : SimdPrefix) (e : Legacy RM) : Bool :=
  wfPrefixes pp e.prefixes && (decide (m = .mode64) || e.rex.isNone) && wfRM (is16 m e.prefixes) e.rm

/-- REX.W, 0 when there is no REX (R84). -/
def rexW (rex : Option Rex) : Bool :=
  match rex with
  | some r => r.w
  | none => false

/-- The two-byte VEX names the map 0F only (R93); in Mode32 R = X = B = 0 (R98 (c), D9). -/
def wfVexForm (m : Mode) (map : OpMap) (f : VexForm) : Bool :=
  match f with
  | .two r => decide (map = .m0F) && (decide (m = .mode64) || !r)
  | .three r x b _ => decide (m = .mode64) || (!r && !x && !b)

/-- A VEX encoding is one R98 and R117 accept; `v` is the register of an NDS row, at most 7 in Mode32. -/
def wfVex (m : Mode) (map : OpMap) (v : RegNum) (e : Vex RM) : Bool :=
  wfPrefixes .none e.prefixes && wfVexForm m map e.form && (decide (m = .mode64) || decide (v.toNat ≤ 7)) &&
    wfRM (is16 m e.prefixes) e.rm

/-- An instruction has an encoding that the model accepts in mode `m`. -/
def Instr.wf (m : Mode) (i : Instr) : Bool :=
  match i with
  | .movddup e => wfLegacy m .pF2 e
  | .vmovddupX e => wfVex m .m0F 0 e
  | .vmovddupY e => wfVex m .m0F 0 e
  | .movdqaLoad e => wfLegacy m .p66 e
  | .movdqaStore e => wfLegacy m .p66 e
  | .vmovdqaXLoad e => wfVex m .m0F 0 e
  | .vmovdqaXStore e => wfVex m .m0F 0 e
  | .vmovdqaYLoad e => wfVex m .m0F 0 e
  | .vmovdqaYStore e => wfVex m .m0F 0 e
  | .movdquLoad e => wfLegacy m .pF3 e
  | .movdquStore e => wfLegacy m .pF3 e
  | .vmovdquXLoad e => wfVex m .m0F 0 e
  | .vmovdquXStore e => wfVex m .m0F 0 e
  | .vmovdquYLoad e => wfVex m .m0F 0 e
  | .vmovdquYStore e => wfVex m .m0F 0 e
  | .movdq2q e => wfLegacy m .pF2 (e.map RM.reg)
  | .movhlps e => wfLegacy m .none (e.map RM.reg)
  | .vmovhlps v e => wfVex m .m0F v (e.map RM.reg)
  | .movhpdLoad e => wfLegacy m .p66 (e.map RM.mem)
  | .movhpdStore e => wfLegacy m .p66 (e.map RM.mem)
  | .vmovhpdLoad v e => wfVex m .m0F v (e.map RM.mem)
  | .vmovhpdStore e => wfVex m .m0F 0 (e.map RM.mem)
  | .movhpsLoad e => wfLegacy m .none (e.map RM.mem)
  | .movhpsStore e => wfLegacy m .none (e.map RM.mem)
  | .vmovhpsLoad v e => wfVex m .m0F v (e.map RM.mem)
  | .vmovhpsStore e => wfVex m .m0F 0 (e.map RM.mem)
  | .movlhps e => wfLegacy m .none (e.map RM.reg)
  | .vmovlhps v e => wfVex m .m0F v (e.map RM.reg)
  | .movlpdLoad e => wfLegacy m .p66 (e.map RM.mem)
  | .movlpdStore e => wfLegacy m .p66 (e.map RM.mem)
  | .vmovlpdLoad v e => wfVex m .m0F v (e.map RM.mem)
  | .vmovlpdStore e => wfVex m .m0F 0 (e.map RM.mem)
  | .movlpsLoad e => wfLegacy m .none (e.map RM.mem)
  | .movlpsStore e => wfLegacy m .none (e.map RM.mem)
  | .vmovlpsLoad v e => wfVex m .m0F v (e.map RM.mem)
  | .vmovlpsStore e => wfVex m .m0F 0 (e.map RM.mem)
  | .movmskpd e => wfLegacy m .p66 (e.map RM.reg)
  | .vmovmskpdX e => wfVex m .m0F 0 (e.map RM.reg)
  | .vmovmskpdY e => wfVex m .m0F 0 (e.map RM.reg)
  | .movmskps e => wfLegacy m .none (e.map RM.reg)
  | .vmovmskpsX e => wfVex m .m0F 0 (e.map RM.reg)
  | .vmovmskpsY e => wfVex m .m0F 0 (e.map RM.reg)
  | .movntdqa e => wfLegacy m .p66 (e.map RM.mem)
  | .vmovntdqaX e => wfVex m .m0F38 0 (e.map RM.mem)
  | .vmovntdqaY e => wfVex m .m0F38 0 (e.map RM.mem)
  | .movntdq e => wfLegacy m .p66 (e.map RM.mem)
  | .vmovntdqX e => wfVex m .m0F 0 (e.map RM.mem)
  | .vmovntdqY e => wfVex m .m0F 0 (e.map RM.mem)
  | .movnti32 e => wfLegacy m .none (e.map RM.mem) && !rexW e.rex
  | .movnti64 e => wfLegacy m .none (e.map RM.mem) && rexW e.rex
  | .movntpd e => wfLegacy m .p66 (e.map RM.mem)
  | .vmovntpdX e => wfVex m .m0F 0 (e.map RM.mem)
  | .vmovntpdY e => wfVex m .m0F 0 (e.map RM.mem)
  | .movntps e => wfLegacy m .none (e.map RM.mem)
  | .vmovntpsX e => wfVex m .m0F 0 (e.map RM.mem)
  | .vmovntpsY e => wfVex m .m0F 0 (e.map RM.mem)
  | .movntq e => wfLegacy m .none (e.map RM.mem)
  | .movqMmLoad e => wfLegacy m .none e
  | .movqMmStore e => wfLegacy m .none e
  | .movqXmmLoad e => wfLegacy m .pF3 e
  | .vmovqReg e => wfVex m .m0F 0 (e.map RM.reg)
  | .vmovqLoad e => wfVex m .m0F 0 (e.map RM.mem)
  | .movqXmmStore e => wfLegacy m .p66 e
  | .vmovqStore e => wfVex m .m0F 0 e

end Sys2Proof
end

