-- ==== Sys2Proof/Decode.lean ====
section
/-! DEFINITION. Bytes to instructions and back: the decode procedure of R110 over the formats of R80 to R98 and
the table of R111, the encoder over the same table, and the reading of opcode_table.json's key words (R109). -/

namespace Sys2Proof

/-! ### What decoding answers -/

/-- The decode-time causes of #UD (R261 (a) to (e), R97). -/
inductive UdCause where
  /-- A LOCK prefix (R117 (a)). -/
  | lock
  /-- F0, 66, F2, F3 or REX before a VEX prefix (R98 (a), R117 (b)). -/
  | prefixBeforeVex
  /-- A reserved value of VEX.mmmmm (R97). -/
  | reservedMap
  /-- VEX.vvvv is not 1111b where it must be (R114). -/
  | reservedVvvv
  /-- A VEX.L that no row of the opcode has (R115). -/
  | reservedL
  /-- A ModRM.mod that no row of the opcode has (R116). -/
  | reservedMod
deriving DecidableEq, Repr

/-- Why the decoder gives bytes no meaning. -/
inductive DecodeRefusal where
  /-- No row of the table: outside the model (R113, R118). -/
  | outsideTable
  /-- A prefix set the model does not accept (R117 (c), D9, D27). -/
  | prefixSet
  /-- In Mode32 a three-byte VEX with B' = 0, or a VEX with vvvv[3] = 0 (R98 (c), D9). -/
  | vexMode32
deriving DecidableEq, Repr

/-- The outcome of decoding (R110). -/
inductive Decoded where
  | instr (i : Instr)
  | ud (c : UdCause)
  /-- The instruction is longer than the bytes given: with 15 bytes given, longer than 15 (R89). -/
  | outOfBytes
  | refused (r : DecodeRefusal)
deriving DecidableEq, Repr

/-! ### Prefixes (R81, R84) -/

/-- The byte of a segment override (R81). -/
def Seg.byte (s : Seg) : Byte :=
  match s with
  | .es => 0x26
  | .cs => 0x2E
  | .ss => 0x36
  | .ds => 0x3E
  | .fs => 0x64
  | .gs => 0x65

/-- The byte of a legacy prefix (R81). -/
def Prefix.byte (p : Prefix) : Byte :=
  match p with
  | .lock => 0xF0
  | .repne => 0xF2
  | .rep => 0xF3
  | .opSize => 0x66
  | .addrSize => 0x67
  | .seg s => s.byte

/-- The legacy prefix a byte is, if it is one (R81). -/
def readPrefix (b : Byte) : Option Prefix :=
  if b = 0xF0 then some .lock
  else if b = 0xF2 then some .repne
  else if b = 0xF3 then some .rep
  else if b = 0x66 then some .opSize
  else if b = 0x67 then some .addrSize
  else if b = 0x26 then some (.seg .es)
  else if b = 0x2E then some (.seg .cs)
  else if b = 0x36 then some (.seg .ss)
  else if b = 0x3E then some (.seg .ds)
  else if b = 0x64 then some (.seg .fs)
  else if b = 0x65 then some (.seg .gs)
  else none

/-- What may stand before an opcode: a legacy prefix or, in Mode64, a REX prefix. -/
inductive PrefixItem where
  | legacy (p : Prefix)
  | rex (r : Rex)
deriving DecidableEq, Repr

/-- REX is 0100WRXB (R84). -/
def Rex.byte (r : Rex) : Byte :=
  0x4#4 ++ BitVec.ofBool r.w ++ BitVec.ofBool r.r ++ BitVec.ofBool r.x ++ BitVec.ofBool r.b

/-- The prefix a byte is, if it is one; REX exists in Mode64 only (R84). -/
def readItem (m : Mode) (b : Byte) : Option PrefixItem :=
  match readPrefix b with
  | some p => some (.legacy p)
  | none =>
    if m = .mode64 ∧ b.extractLsb' 4 4 = 0x4#4 then
      some (.rex { w := b.getLsbD 3, r := b.getLsbD 2, x := b.getLsbD 1, b := b.getLsbD 0 })
    else none

/-- Reads prefixes until a byte that is none (R110 step 1); answers them and the bytes that are left. -/
def readPrefixes (m : Mode) (bs : List Byte) : List PrefixItem × List Byte :=
  match bs with
  | [] => ([], [])
  | b :: rest =>
    match readItem m b with
    | some p => (p :: (readPrefixes m rest).1, (readPrefixes m rest).2)
    | none => ([], b :: rest)

/-- The legacy prefixes and the REX, where REX stands at most once and last (R84, R117). -/
def splitItems (items : List PrefixItem) : Option (List Prefix × Option Rex) :=
  match items with
  | [] => some ([], none)
  | [.rex r] => some ([], some r)
  | .legacy p :: rest => (splitItems rest).map fun s => (p :: s.1, s.2)
  | .rex _ :: _ :: _ => none

/-- Whether a prefix makes a VEX prefix after it #UD (R98 (a)). -/
def PrefixItem.forbidsVex (it : PrefixItem) : Bool :=
  match it with
  | .rex _ => true
  | .legacy p => p.isSimd || decide (p = .lock)

/-- The legacy prefixes among the items. -/
def legacyOf (items : List PrefixItem) : List Prefix :=
  items.filterMap fun it =>
    match it with
    | .legacy p => some p
    | .rex _ => none

/-- I.pp of an accepted prefix set: at most one segment override, at most one 67, at most one of 66, F2, F3 and
that once, no LOCK; `none` for any other set (R117). -/
def simdOf (ps : List Prefix) : Option SimdPrefix :=
  if (ps.filter Prefix.isSeg).length ≤ 1 ∧ ps.count .addrSize ≤ 1 ∧ Prefix.lock ∉ ps then
    match ps.filter Prefix.isSimd with
    | [] => some .none
    | [.opSize] => some .p66
    | [.rep] => some .pF3
    | [.repne] => some .pF2
    | _ => none
  else none

/-! ### ModRM, SIB and displacement (R85 to R87) -/

/-- Two bytes, the first the less significant (R87). -/
def read16 (bs : List Byte) : Option (BitVec 16 × List Byte) :=
  match bs with
  | b0 :: b1 :: rest => some (b1 ++ b0, rest)
  | _ => none

/-- Four bytes, the first the least significant (R87). -/
def read32 (bs : List Byte) : Option (BitVec 32 × List Byte) :=
  match bs with
  | b0 :: b1 :: b2 :: b3 :: rest => some (b3 ++ b2 ++ b1 ++ b0, rest)
  | _ => none

/-- The displacement that mod selects under 32- and 64-bit addressing (R87). -/
def readDisp (mod : BitVec 2) (bs : List Byte) : Option (Disp × List Byte) :=
  if mod = 0 then some (.none, bs)
  else if mod = 1 then
    match bs with
    | b :: rest => some (.d8 b, rest)
    | [] => none
  else (read32 bs).map fun r => (.d32 r.1, r.2)

/-- The displacement that mod selects under 16-bit addressing (R87). -/
def readDisp16 (mod : BitVec 2) (bs : List Byte) : Option (Disp16 × List Byte) :=
  if mod = 0 then some (.none, bs)
  else if mod = 1 then
    match bs with
    | b :: rest => some (.d8 b, rest)
    | [] => none
  else (read16 bs).map fun r => (.d16 r.1, r.2)

/-- The memory operand after a ModRM byte with this mod and rm under 32- and 64-bit addressing (R86, R87). -/
def readMem (mod : BitVec 2) (rm : BitVec 3) (bs : List Byte) : Option (MemOp × List Byte) :=
  if rm = 4 then
    match bs with
    | [] => none
    | s :: rest =>
      if mod = 0 ∧ s.extractLsb' 0 3 = 5 then
        (read32 rest).map fun r => (.sibNoBase (s.extractLsb' 6 2) (s.extractLsb' 3 3) r.1, r.2)
      else
        (readDisp mod rest).map fun r =>
          (.sib (s.extractLsb' 6 2) (s.extractLsb' 3 3) (s.extractLsb' 0 3) r.1, r.2)
  else if mod = 0 ∧ rm = 5 then (read32 bs).map fun r => (.disp32 r.1, r.2)
  else (readDisp mod bs).map fun r => (.base rm r.1, r.2)

/-- The memory operand after a ModRM byte with this mod and rm under 16-bit addressing (R87, R102). -/
def readMem16 (mod : BitVec 2) (rm : BitVec 3) (bs : List Byte) : Option (MemOp × List Byte) :=
  if mod = 0 ∧ rm = 6 then (read16 bs).map fun r => (.disp16 r.1, r.2)
  else (readDisp16 mod bs).map fun r => (.base16 rm r.1, r.2)

/-- ModRM and what follows it: the reg field, the r/m operand, the bytes left; `none` when the bytes run out
(R85 to R87). -/
def readRM (a16 : Bool) (bs : List Byte) : Option (BitVec 3 × RM × List Byte) :=
  match bs with
  | [] => none
  | b :: rest =>
    if b.extractLsb' 6 2 = 3 then some (b.extractLsb' 3 3, .reg (b.extractLsb' 0 3), rest)
    else
      (if a16 then readMem16 (b.extractLsb' 6 2) (b.extractLsb' 0 3) rest
        else readMem (b.extractLsb' 6 2) (b.extractLsb' 0 3) rest).map
        fun r => (b.extractLsb' 3 3, .mem r.1, r.2)

/-- ModRM (R85). -/
def modRM (mod : BitVec 2) (reg rm : BitVec 3) : Byte :=
  mod ++ reg ++ rm

/-- SIB (R86). -/
def sibByte (scale : BitVec 2) (index base : BitVec 3) : Byte :=
  scale ++ index ++ base

/-- Two bytes, the less significant first (R87). -/
def bytes16 (d : BitVec 16) : List Byte :=
  [d.extractLsb' 0 8, d.extractLsb' 8 8]

/-- Four bytes, the least significant first (R87). -/
def bytes32 (d : BitVec 32) : List Byte :=
  [d.extractLsb' 0 8, d.extractLsb' 8 8, d.extractLsb' 16 8, d.extractLsb' 24 8]

/-- ModRM.mod for a displacement (R87). -/
def Disp.mod (d : Disp) : BitVec 2 :=
  match d with
  | .none => 0
  | .d8 _ => 1
  | .d32 _ => 2

/-- The bytes of a displacement (R87). -/
def Disp.bytes (d : Disp) : List Byte :=
  match d with
  | .none => []
  | .d8 v => [v]
  | .d32 v => bytes32 v

/-- ModRM.mod for a 16-bit form's displacement (R87). -/
def Disp16.mod (d : Disp16) : BitVec 2 :=
  match d with
  | .none => 0
  | .d8 _ => 1
  | .d16 _ => 2

/-- The bytes of a 16-bit form's displacement (R87). -/
def Disp16.bytes (d : Disp16) : List Byte :=
  match d with
  | .none => []
  | .d8 v => [v]
  | .d16 v => bytes16 v

/-- ModRM, SIB and displacement of a memory operand (R85 to R87). -/
def memBytes (reg : BitVec 3) (op : MemOp) : List Byte :=
  match op with
  | .base rm d => modRM d.mod reg rm :: d.bytes
  | .sib sc ix bs d => modRM d.mod reg 4 :: sibByte sc ix bs :: d.bytes
  | .sibNoBase sc ix d => modRM 0 reg 4 :: sibByte sc ix 5 :: bytes32 d
  | .disp32 d => modRM 0 reg 5 :: bytes32 d
  | .base16 rm d => modRM d.mod reg rm :: d.bytes
  | .disp16 d => modRM 0 reg 6 :: bytes16 d

/-- ModRM and what follows it. -/
def rmBytes (reg : BitVec 3) (rm : RM) : List Byte :=
  match rm with
  | .reg n => [modRM 3 reg n]
  | .mem op => memBytes reg op

/-! ### The table (R109, R111) -/

/-- The key's code of a SIMD prefix, which is also VEX.pp (R97, R109). -/
def SimdPrefix.code (pp : SimdPrefix) : BitVec 2 :=
  match pp with
  | .none => 0
  | .p66 => 1
  | .pF3 => 2
  | .pF2 => 3

/-- The key's code of an opcode map, which is also VEX.mmmmm (R97, R109). -/
def OpMap.code (map : OpMap) : BitVec 5 :=
  match map with
  | .m0F => 1
  | .m0F38 => 2

/-- The 24-bit key of R109. -/
def rowKey (v : Bool) (pp : BitVec 2) (map : BitVec 5) (w l : Bool) (vvvv : BitVec 4) (rf : Bool) (opc : Byte) :
    BitVec 24 :=
  BitVec.ofBool v ++ pp ++ map ++ BitVec.ofBool w ++ BitVec.ofBool l ++ vvvv ++ BitVec.ofBool rf ++ 0#1 ++ opc

/-- The key bits V, pp, map and opc, which every row fixes (R109, R110 step 5). -/
def opcodeMask : BitVec 24 := 0xFF00FF

/-- The key bits V, map and opc: an opcode under any SIMD prefix (assumption log 11). -/
def anyPrefixMask : BitVec 24 := 0x9F00FF

/-- The register form of an encoding, if it is one. -/
def Legacy.asReg (e : Legacy RM) : Option (Legacy RegField) :=
  match e.rm with
  | .reg n => some { prefixes := e.prefixes, rex := e.rex, reg := e.reg, rm := n }
  | .mem _ => none

/-- The memory form of an encoding, if it is one. -/
def Legacy.asMem (e : Legacy RM) : Option (Legacy MemOp) :=
  match e.rm with
  | .reg _ => none
  | .mem op => some { prefixes := e.prefixes, rex := e.rex, reg := e.reg, rm := op }

/-- The register form of an encoding, if it is one. -/
def Vex.asReg (e : Vex RM) : Option (Vex RegField) :=
  match e.rm with
  | .reg n => some { prefixes := e.prefixes, form := e.form, reg := e.reg, rm := n }
  | .mem _ => none

/-- The memory form of an encoding, if it is one. -/
def Vex.asMem (e : Vex RM) : Option (Vex MemOp) :=
  match e.rm with
  | .reg _ => none
  | .mem op => some { prefixes := e.prefixes, form := e.form, reg := e.reg, rm := op }

/-- A legacy row: its mask and match of opcode_table.json, and the instruction it makes. -/
structure LegacyRow where
  mask : BitVec 24
  pattern : BitVec 24
  make : Legacy RM → Option Instr

/-- A VEX row: its mask and match of opcode_table.json, whether VEX.vvvv names a register (NDS), and the
instruction it makes from that register's number and the encoding. -/
structure VexRow where
  mask : BitVec 24
  pattern : BitVec 24
  nds : Bool
  make : RegNum → Vex RM → Option Instr


/-- The legacy rows of R111. -/
def legacyRows : List LegacyRow :=
  [⟨0xFF00FF, 0x610012, fun e => some (.movddup e)⟩,
   ⟨0xFF00FF, 0x21006F, fun e => some (.movdqaLoad e)⟩,
   ⟨0xFF00FF, 0x21007F, fun e => some (.movdqaStore e)⟩,
   ⟨0xFF00FF, 0x41006F, fun e => some (.movdquLoad e)⟩,
   ⟨0xFF00FF, 0x41007F, fun e => some (.movdquStore e)⟩,
   ⟨0xFF02FF, 0x6102D6, fun e => e.asReg.map .movdq2q⟩,
   ⟨0xFF02FF, 0x010212, fun e => e.asReg.map .movhlps⟩,
   ⟨0xFF02FF, 0x210016, fun e => e.asMem.map .movhpdLoad⟩,
   ⟨0xFF02FF, 0x210017, fun e => e.asMem.map .movhpdStore⟩,
   ⟨0xFF02FF, 0x010016, fun e => e.asMem.map .movhpsLoad⟩,
   ⟨0xFF02FF, 0x010017, fun e => e.asMem.map .movhpsStore⟩,
   ⟨0xFF02FF, 0x010216, fun e => e.asReg.map .movlhps⟩] ++
  [⟨0xFF02FF, 0x210012, fun e => e.asMem.map .movlpdLoad⟩,
   ⟨0xFF02FF, 0x210013, fun e => e.asMem.map .movlpdStore⟩,
   ⟨0xFF02FF, 0x010012, fun e => e.asMem.map .movlpsLoad⟩,
   ⟨0xFF02FF, 0x010013, fun e => e.asMem.map .movlpsStore⟩,
   ⟨0xFF02FF, 0x210250, fun e => e.asReg.map .movmskpd⟩,
   ⟨0xFF02FF, 0x010250, fun e => e.asReg.map .movmskps⟩,
   ⟨0xFF02FF, 0x22002A, fun e => e.asMem.map .movntdqa⟩,
   ⟨0xFF02FF, 0x2100E7, fun e => e.asMem.map .movntdq⟩,
   ⟨0xFF82FF, 0x0100C3, fun e => e.asMem.map .movnti32⟩,
   ⟨0xFF82FF, 0x0180C3, fun e => e.asMem.map .movnti64⟩,
   ⟨0xFF02FF, 0x21002B, fun e => e.asMem.map .movntpd⟩,
   ⟨0xFF02FF, 0x01002B, fun e => e.asMem.map .movntps⟩] ++
  [⟨0xFF02FF, 0x0100E7, fun e => e.asMem.map .movntq⟩,
   ⟨0xFF00FF, 0x01006F, fun e => some (.movqMmLoad e)⟩,
   ⟨0xFF00FF, 0x01007F, fun e => some (.movqMmStore e)⟩,
   ⟨0xFF00FF, 0x41007E, fun e => some (.movqXmmLoad e)⟩,
   ⟨0xFF00FF, 0x2100D6, fun e => some (.movqXmmStore e)⟩]

/-- The VEX rows of R111. -/
def vexRows : List VexRow :=
  [⟨0xFF40FF, 0xE10012, false, fun _ e => some (.vmovddupX e)⟩,
   ⟨0xFF40FF, 0xE14012, false, fun _ e => some (.vmovddupY e)⟩,
   ⟨0xFF40FF, 0xA1006F, false, fun _ e => some (.vmovdqaXLoad e)⟩,
   ⟨0xFF40FF, 0xA1007F, false, fun _ e => some (.vmovdqaXStore e)⟩,
   ⟨0xFF40FF, 0xA1406F, false, fun _ e => some (.vmovdqaYLoad e)⟩,
   ⟨0xFF40FF, 0xA1407F, false, fun _ e => some (.vmovdqaYStore e)⟩,
   ⟨0xFF40FF, 0xC1006F, false, fun _ e => some (.vmovdquXLoad e)⟩,
   ⟨0xFF40FF, 0xC1007F, false, fun _ e => some (.vmovdquXStore e)⟩,
   ⟨0xFF40FF, 0xC1406F, false, fun _ e => some (.vmovdquYLoad e)⟩,
   ⟨0xFF40FF, 0xC1407F, false, fun _ e => some (.vmovdquYStore e)⟩,
   ⟨0xFF42FF, 0x810212, true, fun v e => e.asReg.map (.vmovhlps v)⟩,
   ⟨0xFF42FF, 0xA10016, true, fun v e => e.asMem.map (.vmovhpdLoad v)⟩] ++
  [⟨0xFF42FF, 0xA10017, false, fun _ e => e.asMem.map .vmovhpdStore⟩,
   ⟨0xFF42FF, 0x810016, true, fun v e => e.asMem.map (.vmovhpsLoad v)⟩,
   ⟨0xFF42FF, 0x810017, false, fun _ e => e.asMem.map .vmovhpsStore⟩,
   ⟨0xFF42FF, 0x810216, true, fun v e => e.asReg.map (.vmovlhps v)⟩,
   ⟨0xFF42FF, 0xA10012, true, fun v e => e.asMem.map (.vmovlpdLoad v)⟩,
   ⟨0xFF42FF, 0xA10013, false, fun _ e => e.asMem.map .vmovlpdStore⟩,
   ⟨0xFF42FF, 0x810012, true, fun v e => e.asMem.map (.vmovlpsLoad v)⟩,
   ⟨0xFF42FF, 0x810013, false, fun _ e => e.asMem.map .vmovlpsStore⟩,
   ⟨0xFF42FF, 0xA10250, false, fun _ e => e.asReg.map .vmovmskpdX⟩,
   ⟨0xFF42FF, 0xA14250, false, fun _ e => e.asReg.map .vmovmskpdY⟩,
   ⟨0xFF42FF, 0x810250, false, fun _ e => e.asReg.map .vmovmskpsX⟩,
   ⟨0xFF42FF, 0x814250, false, fun _ e => e.asReg.map .vmovmskpsY⟩] ++
  [⟨0xFF42FF, 0xA2002A, false, fun _ e => e.asMem.map .vmovntdqaX⟩,
   ⟨0xFF42FF, 0xA2402A, false, fun _ e => e.asMem.map .vmovntdqaY⟩,
   ⟨0xFF42FF, 0xA100E7, false, fun _ e => e.asMem.map .vmovntdqX⟩,
   ⟨0xFF42FF, 0xA140E7, false, fun _ e => e.asMem.map .vmovntdqY⟩,
   ⟨0xFF42FF, 0xA1002B, false, fun _ e => e.asMem.map .vmovntpdX⟩,
   ⟨0xFF42FF, 0xA1402B, false, fun _ e => e.asMem.map .vmovntpdY⟩,
   ⟨0xFF42FF, 0x81002B, false, fun _ e => e.asMem.map .vmovntpsX⟩,
   ⟨0xFF42FF, 0x81402B, false, fun _ e => e.asMem.map .vmovntpsY⟩,
   ⟨0xFF42FF, 0xC1027E, false, fun _ e => e.asReg.map .vmovqReg⟩,
   ⟨0xFF42FF, 0xC1007E, false, fun _ e => e.asMem.map .vmovqLoad⟩,
   ⟨0xFF40FF, 0xA100D6, false, fun _ e => some (.vmovqStore e)⟩]

/-- Whether some legacy row agrees with a key on the bits of `mask`. -/
def legacyAgrees (mask key : BitVec 24) : Bool :=
  legacyRows.any fun row => key &&& mask == row.pattern &&& mask

/-- Whether some VEX row agrees with a key on the bits of `mask`. -/
def vexAgrees (mask key : BitVec 24) : Bool :=
  vexRows.any fun row => key &&& mask == row.pattern &&& mask

/-- Whether an r/m operand is a register: RF of the key (R109). -/
def RM.isReg (rm : RM) : Bool :=
  match rm with
  | .reg _ => true
  | .mem _ => false

/-! ### Decoding (R110) -/

/-- Steps 4 and 5 of R110 for a legacy opcode whose prefixes are accepted. -/
def decodeLegacyRM (m : Mode) (ps : List Prefix) (rex : Option Rex) (pp : SimdPrefix) (map : OpMap) (opc : Byte)
    (rest : List Byte) : Decoded :=
  match readRM (is16 m ps) rest with
  | none => .outOfBytes
  | some (reg, rm, _) =>
    match legacyRows.find? fun row =>
        rowKey false pp.code map.code (rexW rex) false 0xF rm.isReg opc &&& row.mask == row.pattern with
    | none => .ud .reservedMod
    | some row =>
      match row.make { prefixes := ps, rex := rex, reg := reg, rm := rm } with
      | some i => .instr i
      | none => .ud .reservedMod

/-- A legacy opcode, after its escape bytes (R110 steps 1, 3, 5; R117; assumption logs 11, 12). -/
def decodeLegacyOp (m : Mode) (items : List PrefixItem) (map : OpMap) (opc : Byte) (rest : List Byte) : Decoded :=
  if legacyAgrees anyPrefixMask (rowKey false 0 map.code false false 0xF false opc) then
    if PrefixItem.legacy .lock ∈ items then .ud .lock
    else
      match splitItems items with
      | none => .refused .prefixSet
      | some (ps, rex) =>
        match simdOf ps with
        | none => .refused .prefixSet
        | some pp =>
          if legacyAgrees opcodeMask (rowKey false pp.code map.code false false 0xF false opc) then
            decodeLegacyRM m ps rex pp map opc rest
          else .refused .outsideTable
  else .refused .outsideTable

/-- The bytes after 0F (R83, R110 step 3). -/
def decodeLegacy (m : Mode) (items : List PrefixItem) (bs : List Byte) : Decoded :=
  match bs with
  | [] => .outOfBytes
  | b :: rest =>
    if b = 0x38 then
      match rest with
      | [] => .outOfBytes
      | opc :: rest' => decodeLegacyOp m items .m0F38 opc rest'
    else if b = 0x3A then .refused .outsideTable
    else decodeLegacyOp m items .m0F b rest

/-- The fields of a VEX prefix (R92, R93); mmmmm, vvvv and pp as the bytes hold them. -/
structure VexPrefix where
  form : VexForm
  mmmmm : BitVec 5
  vvvv : BitVec 4
  l : Bool
  pp : BitVec 2
deriving DecidableEq, Repr

/-- The payload of a two-byte VEX prefix (R93). -/
def readVex2 (b : Byte) : VexPrefix :=
  { form := .two (!b.getLsbD 7)
    mmmmm := 1
    vvvv := b.extractLsb' 3 4
    l := b.getLsbD 2
    pp := b.extractLsb' 0 2 }

/-- The payload of a three-byte VEX prefix (R92). -/
def readVex3 (b1 b2 : Byte) : VexPrefix :=
  { form := .three (!b1.getLsbD 7) (!b1.getLsbD 6) (!b1.getLsbD 5) (b2.getLsbD 7)
    mmmmm := b1.extractLsb' 0 5
    vvvv := b2.extractLsb' 3 4
    l := b2.getLsbD 2
    pp := b2.extractLsb' 0 2 }

/-- VEX.W, 0 in the two-byte form (R93). -/
def VexForm.w (f : VexForm) : Bool :=
  match f with
  | .two _ => false
  | .three _ _ _ w => w

/-- The bit that extends ModRM:reg (R92, R93). -/
def VexForm.r (f : VexForm) : Bool :=
  match f with
  | .two r => r
  | .three r _ _ _ => r

/-- The bit that extends a SIB index, 0 in the two-byte form (R92, R93). -/
def VexForm.x (f : VexForm) : Bool :=
  match f with
  | .two _ => false
  | .three _ x _ _ => x

/-- The bit that extends ModRM:r/m or a base, 0 in the two-byte form (R92, R93). -/
def VexForm.b (f : VexForm) : Bool :=
  match f with
  | .two _ => false
  | .three _ _ b _ => b

/-- Steps 4 to 6 of R110 for a VEX opcode that some row has. -/
def decodeVexRM (m : Mode) (ps : List Prefix) (v : VexPrefix) (opc : Byte) (rest : List Byte) : Decoded :=
  match readRM (is16 m ps) rest with
  | none => .outOfBytes
  | some (reg, rm, _) =>
    match vexRows.find? fun row =>
        rowKey true v.pp v.mmmmm v.form.w v.l v.vvvv rm.isReg opc &&& row.mask == row.pattern with
    | none =>
      if vexAgrees (opcodeMask ||| 0x4000) (rowKey true v.pp v.mmmmm false v.l 0xF false opc) then .ud .reservedMod
      else .ud .reservedL
    | some row =>
      if !row.nds && v.vvvv != 0xF then .ud .reservedVvvv
      else
        match row.make (~~~v.vvvv) { prefixes := ps, form := v.form, reg := reg, rm := rm } with
        | some i => .instr i
        | none => .ud .reservedMod

/-- What follows a VEX prefix that no LOCK, 66, F2, F3 or REX precedes (R97, R98 (c), R110 steps 2 and 5). -/
def decodeVex (m : Mode) (items : List PrefixItem) (v : VexPrefix) (bs : List Byte) : Decoded :=
  if m = .mode32 ∧ (v.form.b = true ∨ v.vvvv.getLsbD 3 = false) then .refused .vexMode32
  else if v.mmmmm ≠ 1 ∧ v.mmmmm ≠ 2 ∧ v.mmmmm ≠ 3 then .ud .reservedMap
  else
    match bs with
    | [] => .outOfBytes
    | opc :: rest =>
      if vexAgrees opcodeMask (rowKey true v.pp v.mmmmm false false 0xF false opc) then
        match simdOf (legacyOf items) with
        | none => .refused .prefixSet
        | some _ => decodeVexRM m (legacyOf items) v opc rest
      else .refused .outsideTable

/-- Whether C4 or C5 before these bytes starts a VEX prefix: in Mode64 always, in Mode32 where bits 7:6 of the next
byte are 11b; `none` when that byte is missing (R98 (c)). -/
def startsVex (m : Mode) (bs : List Byte) : Option Bool :=
  match m with
  | .mode64 => some true
  | .mode32 => bs.head?.map fun b => b.extractLsb' 6 2 == 3

/-- The payload of the VEX prefix that `b0`, C4 or C5, starts, and the bytes after it; `none` when the bytes run out
(R92, R93). -/
def readVex (b0 : Byte) (bs : List Byte) : Option (VexPrefix × List Byte) :=
  if b0 = 0xC5 then
    match bs with
    | b1 :: rest => some (readVex2 b1, rest)
    | [] => none
  else
    match bs with
    | b1 :: b2 :: rest => some (readVex3 b1 b2, rest)
    | _ => none

/-- The decode procedure of R110 on the bytes at RIP. -/
def decode (m : Mode) (bs : List Byte) : Decoded :=
  match (readPrefixes m bs).2 with
  | [] => .outOfBytes
  | b0 :: rest =>
    if b0 = 0xC4 ∨ b0 = 0xC5 then
      match startsVex m rest with
      | none => .outOfBytes
      | some false => .refused .outsideTable
      | some true =>
        if (readPrefixes m bs).1.any PrefixItem.forbidsVex then .ud .prefixBeforeVex
        else
          match readVex b0 rest with
          | none => .outOfBytes
          | some (v, rest') => decodeVex m (readPrefixes m bs).1 v rest'
    else if b0 = 0x0F then decodeLegacy m (readPrefixes m bs).1 rest
    else .refused .outsideTable

/-! ### Encoding (R80 to R98, R111) and length (R89) -/

/-- The escape bytes of a map in the legacy format (R83). -/
def OpMap.escape (map : OpMap) : List Byte :=
  match map with
  | .m0F => [0x0F]
  | .m0F38 => [0x0F, 0x38]

/-- The bytes of a legacy-format instruction (R80). -/
def legacyBytes (map : OpMap) (opc : Byte) (e : Legacy RM) : List Byte :=
  e.prefixes.map Prefix.byte ++ (e.rex.toList.map Rex.byte ++ (map.escape ++ opc :: rmBytes e.reg e.rm))

/-- The bytes of a VEX prefix (R92, R93). -/
def vexPrefixBytes (f : VexForm) (map : OpMap) (vvvv : BitVec 4) (l : Bool) (pp : BitVec 2) : List Byte :=
  match f with
  | .two r => [0xC5, BitVec.ofBool (!r) ++ vvvv ++ BitVec.ofBool l ++ pp]
  | .three r x b w =>
    [0xC4, BitVec.ofBool (!r) ++ BitVec.ofBool (!x) ++ BitVec.ofBool (!b) ++ map.code,
      BitVec.ofBool w ++ vvvv ++ BitVec.ofBool l ++ pp]

/-- The bytes of a VEX-format instruction (R80); `v` is the register number that vvvv encodes, 0 where vvvv is
1111b (R95). -/
def vexBytes (pp : SimdPrefix) (map : OpMap) (l : Bool) (v : RegNum) (opc : Byte) (e : Vex RM) : List Byte :=
  e.prefixes.map Prefix.byte ++ (vexPrefixBytes e.form map (~~~v) l pp.code ++ opc :: rmBytes e.reg e.rm)

/-- I.len of a legacy-format instruction (R89). -/
def legacyLen (map : OpMap) (e : Legacy RM) : Nat :=
  e.prefixes.length + e.rex.toList.length + map.escape.length + 1 + (rmBytes e.reg e.rm).length

/-- I.len of a VEX-format instruction (R89). -/
def vexLen (e : Vex RM) : Nat :=
  e.prefixes.length + (match e.form with | .two _ => 2 | .three _ _ _ _ => 3) + 1 + (rmBytes e.reg e.rm).length

/-- The bytes of an instruction, from the rows of R111. -/
def encode (i : Instr) : List Byte :=
  match i with
  | .movddup e => legacyBytes .m0F 0x12 e
  | .vmovddupX e => vexBytes .pF2 .m0F false 0 0x12 e
  | .vmovddupY e => vexBytes .pF2 .m0F true 0 0x12 e
  | .movdqaLoad e => legacyBytes .m0F 0x6F e
  | .movdqaStore e => legacyBytes .m0F 0x7F e
  | .vmovdqaXLoad e => vexBytes .p66 .m0F false 0 0x6F e
  | .vmovdqaXStore e => vexBytes .p66 .m0F false 0 0x7F e
  | .vmovdqaYLoad e => vexBytes .p66 .m0F true 0 0x6F e
  | .vmovdqaYStore e => vexBytes .p66 .m0F true 0 0x7F e
  | .movdquLoad e => legacyBytes .m0F 0x6F e
  | .movdquStore e => legacyBytes .m0F 0x7F e
  | .vmovdquXLoad e => vexBytes .pF3 .m0F false 0 0x6F e
  | .vmovdquXStore e => vexBytes .pF3 .m0F false 0 0x7F e
  | .vmovdquYLoad e => vexBytes .pF3 .m0F true 0 0x6F e
  | .vmovdquYStore e => vexBytes .pF3 .m0F true 0 0x7F e
  | .movdq2q e => legacyBytes .m0F 0xD6 (e.map RM.reg)
  | .movhlps e => legacyBytes .m0F 0x12 (e.map RM.reg)
  | .vmovhlps v e => vexBytes .none .m0F false v 0x12 (e.map RM.reg)
  | .movhpdLoad e => legacyBytes .m0F 0x16 (e.map RM.mem)
  | .movhpdStore e => legacyBytes .m0F 0x17 (e.map RM.mem)
  | .vmovhpdLoad v e => vexBytes .p66 .m0F false v 0x16 (e.map RM.mem)
  | .vmovhpdStore e => vexBytes .p66 .m0F false 0 0x17 (e.map RM.mem)
  | .movhpsLoad e => legacyBytes .m0F 0x16 (e.map RM.mem)
  | .movhpsStore e => legacyBytes .m0F 0x17 (e.map RM.mem)
  | .vmovhpsLoad v e => vexBytes .none .m0F false v 0x16 (e.map RM.mem)
  | .vmovhpsStore e => vexBytes .none .m0F false 0 0x17 (e.map RM.mem)
  | .movlhps e => legacyBytes .m0F 0x16 (e.map RM.reg)
  | .vmovlhps v e => vexBytes .none .m0F false v 0x16 (e.map RM.reg)
  | .movlpdLoad e => legacyBytes .m0F 0x12 (e.map RM.mem)
  | .movlpdStore e => legacyBytes .m0F 0x13 (e.map RM.mem)
  | .vmovlpdLoad v e => vexBytes .p66 .m0F false v 0x12 (e.map RM.mem)
  | .vmovlpdStore e => vexBytes .p66 .m0F false 0 0x13 (e.map RM.mem)
  | .movlpsLoad e => legacyBytes .m0F 0x12 (e.map RM.mem)
  | .movlpsStore e => legacyBytes .m0F 0x13 (e.map RM.mem)
  | .vmovlpsLoad v e => vexBytes .none .m0F false v 0x12 (e.map RM.mem)
  | .vmovlpsStore e => vexBytes .none .m0F false 0 0x13 (e.map RM.mem)
  | .movmskpd e => legacyBytes .m0F 0x50 (e.map RM.reg)
  | .vmovmskpdX e => vexBytes .p66 .m0F false 0 0x50 (e.map RM.reg)
  | .vmovmskpdY e => vexBytes .p66 .m0F true 0 0x50 (e.map RM.reg)
  | .movmskps e => legacyBytes .m0F 0x50 (e.map RM.reg)
  | .vmovmskpsX e => vexBytes .none .m0F false 0 0x50 (e.map RM.reg)
  | .vmovmskpsY e => vexBytes .none .m0F true 0 0x50 (e.map RM.reg)
  | .movntdqa e => legacyBytes .m0F38 0x2A (e.map RM.mem)
  | .vmovntdqaX e => vexBytes .p66 .m0F38 false 0 0x2A (e.map RM.mem)
  | .vmovntdqaY e => vexBytes .p66 .m0F38 true 0 0x2A (e.map RM.mem)
  | .movntdq e => legacyBytes .m0F 0xE7 (e.map RM.mem)
  | .vmovntdqX e => vexBytes .p66 .m0F false 0 0xE7 (e.map RM.mem)
  | .vmovntdqY e => vexBytes .p66 .m0F true 0 0xE7 (e.map RM.mem)
  | .movnti32 e => legacyBytes .m0F 0xC3 (e.map RM.mem)
  | .movnti64 e => legacyBytes .m0F 0xC3 (e.map RM.mem)
  | .movntpd e => legacyBytes .m0F 0x2B (e.map RM.mem)
  | .vmovntpdX e => vexBytes .p66 .m0F false 0 0x2B (e.map RM.mem)
  | .vmovntpdY e => vexBytes .p66 .m0F true 0 0x2B (e.map RM.mem)
  | .movntps e => legacyBytes .m0F 0x2B (e.map RM.mem)
  | .vmovntpsX e => vexBytes .none .m0F false 0 0x2B (e.map RM.mem)
  | .vmovntpsY e => vexBytes .none .m0F true 0 0x2B (e.map RM.mem)
  | .movntq e => legacyBytes .m0F 0xE7 (e.map RM.mem)
  | .movqMmLoad e => legacyBytes .m0F 0x6F e
  | .movqMmStore e => legacyBytes .m0F 0x7F e
  | .movqXmmLoad e => legacyBytes .m0F 0x7E e
  | .vmovqReg e => vexBytes .pF3 .m0F false 0 0x7E (e.map RM.reg)
  | .vmovqLoad e => vexBytes .pF3 .m0F false 0 0x7E (e.map RM.mem)
  | .movqXmmStore e => legacyBytes .m0F 0xD6 e
  | .vmovqStore e => vexBytes .p66 .m0F false 0 0xD6 e

/-- I.len of an instruction: the count of the bytes of its encoding (R89). -/
def Instr.len (i : Instr) : Nat :=
  match i with
  | .movddup e => legacyLen .m0F e
  | .vmovddupX e => vexLen e
  | .vmovddupY e => vexLen e
  | .movdqaLoad e => legacyLen .m0F e
  | .movdqaStore e => legacyLen .m0F e
  | .vmovdqaXLoad e => vexLen e
  | .vmovdqaXStore e => vexLen e
  | .vmovdqaYLoad e => vexLen e
  | .vmovdqaYStore e => vexLen e
  | .movdquLoad e => legacyLen .m0F e
  | .movdquStore e => legacyLen .m0F e
  | .vmovdquXLoad e => vexLen e
  | .vmovdquXStore e => vexLen e
  | .vmovdquYLoad e => vexLen e
  | .vmovdquYStore e => vexLen e
  | .movdq2q e => legacyLen .m0F (e.map RM.reg)
  | .movhlps e => legacyLen .m0F (e.map RM.reg)
  | .vmovhlps _ e => vexLen (e.map RM.reg)
  | .movhpdLoad e => legacyLen .m0F (e.map RM.mem)
  | .movhpdStore e => legacyLen .m0F (e.map RM.mem)
  | .vmovhpdLoad _ e => vexLen (e.map RM.mem)
  | .vmovhpdStore e => vexLen (e.map RM.mem)
  | .movhpsLoad e => legacyLen .m0F (e.map RM.mem)
  | .movhpsStore e => legacyLen .m0F (e.map RM.mem)
  | .vmovhpsLoad _ e => vexLen (e.map RM.mem)
  | .vmovhpsStore e => vexLen (e.map RM.mem)
  | .movlhps e => legacyLen .m0F (e.map RM.reg)
  | .vmovlhps _ e => vexLen (e.map RM.reg)
  | .movlpdLoad e => legacyLen .m0F (e.map RM.mem)
  | .movlpdStore e => legacyLen .m0F (e.map RM.mem)
  | .vmovlpdLoad _ e => vexLen (e.map RM.mem)
  | .vmovlpdStore e => vexLen (e.map RM.mem)
  | .movlpsLoad e => legacyLen .m0F (e.map RM.mem)
  | .movlpsStore e => legacyLen .m0F (e.map RM.mem)
  | .vmovlpsLoad _ e => vexLen (e.map RM.mem)
  | .vmovlpsStore e => vexLen (e.map RM.mem)
  | .movmskpd e => legacyLen .m0F (e.map RM.reg)
  | .vmovmskpdX e => vexLen (e.map RM.reg)
  | .vmovmskpdY e => vexLen (e.map RM.reg)
  | .movmskps e => legacyLen .m0F (e.map RM.reg)
  | .vmovmskpsX e => vexLen (e.map RM.reg)
  | .vmovmskpsY e => vexLen (e.map RM.reg)
  | .movntdqa e => legacyLen .m0F38 (e.map RM.mem)
  | .vmovntdqaX e => vexLen (e.map RM.mem)
  | .vmovntdqaY e => vexLen (e.map RM.mem)
  | .movntdq e => legacyLen .m0F (e.map RM.mem)
  | .vmovntdqX e => vexLen (e.map RM.mem)
  | .vmovntdqY e => vexLen (e.map RM.mem)
  | .movnti32 e => legacyLen .m0F (e.map RM.mem)
  | .movnti64 e => legacyLen .m0F (e.map RM.mem)
  | .movntpd e => legacyLen .m0F (e.map RM.mem)
  | .vmovntpdX e => vexLen (e.map RM.mem)
  | .vmovntpdY e => vexLen (e.map RM.mem)
  | .movntps e => legacyLen .m0F (e.map RM.mem)
  | .vmovntpsX e => vexLen (e.map RM.mem)
  | .vmovntpsY e => vexLen (e.map RM.mem)
  | .movntq e => legacyLen .m0F (e.map RM.mem)
  | .movqMmLoad e => legacyLen .m0F e
  | .movqMmStore e => legacyLen .m0F e
  | .movqXmmLoad e => legacyLen .m0F e
  | .vmovqReg e => vexLen (e.map RM.reg)
  | .vmovqLoad e => vexLen (e.map RM.mem)
  | .movqXmmStore e => legacyLen .m0F e
  | .vmovqStore e => vexLen e

/-! ### The table's key words (assumption log 16) -/

/-- Whether a key belongs to an NDS row, whose vvvv names a register (R95 (a)). -/
def keyIsNds (key : BitVec 24) : Bool :=
  vexRows.any fun row => row.nds && key &&& row.mask == row.pattern

/-- The bytes of the instruction that a key of R109 stands for, every bit the key does not hold being 0: the
prefix pp, REX.W or the three-byte VEX, the map, the opcode, and a ModRM byte with mod = 11b where RF = 1 and 00b
otherwise. vvvv is the key's in an NDS row and 1111b, as the row requires it, in every other. -/
def keyBytes (key : BitVec 24) : List Byte :=
  let pp := key.extractLsb' 21 2
  let map := key.extractLsb' 16 5
  let opc := key.extractLsb' 0 8
  let rm : Byte := if key.getLsbD 9 then 0xC0 else 0x00
  if key.getLsbD 23 then
    let vvvv : BitVec 4 := if keyIsNds key then key.extractLsb' 10 4 else 0xF
    [0xC4, 0x7#3 ++ map, BitVec.ofBool (key.getLsbD 15) ++ vvvv ++ BitVec.ofBool (key.getLsbD 14) ++ pp, opc, rm]
  else
    (if pp = 0 then [] else if pp = 1 then [0x66] else if pp = 2 then [0xF3] else [0xF2]) ++
      ((if key.getLsbD 15 then [0x48] else []) ++
        ((if map = 2 then [0x0F, 0x38] else if map = 3 then [0x0F, 0x3A] else [0x0F]) ++ [opc, rm]))

/-- The bytes of `keyBytes`, followed by zeros up to the 15 bytes that a fetch reads. -/
def tableBytes (_nbits w : Nat) : List Byte :=
  (keyBytes (BitVec.ofNat 24 w) ++ List.replicate 15 0).take 15

/-- The instruction that the decoder reads from the instruction opcode_table.json's word `w` stands for, in
Mode64; the table numbers its words by the key of R109 (D28). -/
def decodeTableWord (nbits w : Nat) : Option Instr :=
  match decode .mode64 (tableBytes nbits w) with
  | .instr i => some i
  | .ud _ => none
  | .outOfBytes => none
  | .refused _ => none

end Sys2Proof
end

