-- ==== Sys2Proof/Machine/State.lean ====
section
/-! DEFINITION. The state of the logical processor (10_state.md), the ways a step can stop (60_exceptions.md,
30_encoding.md R117, R118), and the states a machine has after power-up and at launch (R44, R300). -/

namespace Sys2Proof.Machine

/-- Memory: the bytes that differ from what an unlisted location reads as, by rising location (R40, R50). -/
abbrev Memory := List Host.Cell

/-- The program text of a run: the addresses from `start` up to END, which is just past its last byte (R300,
R304). -/
structure ProgramText where
  start : QWord
  stop : QWord
deriving DecidableEq, Repr

/-- The state. The comment on each field names the rule of spec/ that gives it. -/
structure State where
  /-- RIP; in Mode32 EIP, with bits 63:32 zero (R22). -/
  rip : QWord
  /-- GPR[0..15] (R20). -/
  gpr : Vector QWord 16
  /-- YMM[0..15], XMM[i] being bits 127:0 (R24). -/
  ymm : Vector YWord 16
  /-- The eight physical x87 data registers, MM[i] being bits 63:0 (R26, R27). -/
  x87 : Vector (BitVec 80) 8
  /-- TOP (R28). -/
  top : BitVec 3
  /-- FTW, the x87 tag word (R28). -/
  ftw : BitVec 16
  /-- FPEND: an unmasked x87 exception is pending (R30). -/
  fpend : Bool
  /-- RFLAGS (R23). -/
  rflags : QWord
  /-- CR0 (R31). -/
  cr0 : QWord
  /-- CR4 (R32). -/
  cr4 : QWord
  /-- XCR0 (R33). -/
  xcr0 : QWord
  /-- CPL (R35). -/
  cpl : Fin 4
  /-- Some debug breakpoint is enabled (R289, R300). -/
  breakpoints : Bool
  /-- Memory (R40). -/
  mem : Memory
  /-- The program text, once one is loaded (R300, R304; assumption log 27 for a state without one). -/
  program : Option ProgramText
  /-- The configuration of the run (R6, R42). -/
  cfg : Config
  /-- The MODEL's own: how many #AC draws have been taken (R42, R56; assumption log 4). -/
  draws : Nat
deriving DecidableEq, Repr

/-- How a step ends with an architectural exception: the terminal outcome of R280, with what R281 records.
Each carries the address of the faulting instruction, the unchanged RIP. -/
inductive Fault where
  /-- #UD, vector 6, no error code: a reserved encoding, LOCK, or a feature disabled or absent (R261). Raised by
  the decoder and the check procedures R270 to R274; safe, the spec's own outcome. -/
  | ud (rip : QWord)
  /-- #NM, vector 7, no error code: CR0.TS = 1 (R262). Raised by R270 to R272 and R274; safe. -/
  | nm (rip : QWord)
  /-- #SS, vector 12, error code 0: a bad address through SS, or the oracle's answer (R264). Raised by memory
  accesses; safe. -/
  | ss (errorCode : BitVec 32) (rip : QWord)
  /-- #GP, vector 13, error code 0: a misaligned operand of an aligned move, a bad address, an instruction longer
  than 15 bytes, or the oracle's answer (R263). Raised by memory accesses and the fetch; safe. -/
  | gp (errorCode : BitVec 32) (rip : QWord)
  /-- #PF, vector 14, the oracle's error code; `cr2` is the faulting linear address that CR2 records (R58, R265).
  Raised by memory accesses; safe. -/
  | pf (errorCode : BitVec 32) (rip cr2 : QWord)
  /-- #MF, vector 16, no error code: a pending x87 exception before an MMX-operand instruction (R267). Raised by
  R272 and R274; safe. -/
  | mf (rip : QWord)
  /-- #AC, vector 17, error code 0: alignment checking on and the operand unaligned (R266). Raised by memory
  accesses; safe (a draw where the spec leaves it open, assumption log 4). -/
  | ac (errorCode : BitVec 32) (rip : QWord)
deriving DecidableEq, Repr

/-- Why a step has no meaning in the model; after it nothing is claimed (R304). -/
inductive Refusal where
  /-- An instruction of the table that has no meaning yet; no arm answers it now. Safe. -/
  | notModelled (mnemonic : String)
  /-- Bytes that are none of the 64 rows (R113, R118). Raised by the fetch; safe. -/
  | outsideTable
  /-- A prefix set the model does not accept (R117 (c), D9, D27). Raised by the fetch; safe. -/
  | prefixSet
  /-- In Mode32, a VEX form that D9 refuses (R98 (c)). Raised by the fetch; safe. -/
  | vexMode32
  /-- CR0.PE = 0: real-address mode is outside the model (D2). Raised by the step; safe. -/
  | realAddressMode
  /-- RFLAGS.VM = 1: virtual-8086 mode is outside the model (D2). Raised by the step; safe. -/
  | virtual8086
  /-- RFLAGS.TF = 1 or a breakpoint enabled: debug features are off in the model (D29). Raised by the step;
  safe. -/
  | debugEnabled
  /-- An access under 16-bit addressing that passes offset FFFFH: reserved behaviour (R57, D17). Raised by memory
  accesses; safe. -/
  | segmentEnd16
  /-- An access to device space (R65, D5). Raised by memory accesses; safe. -/
  | device
  /-- A store that overlaps the program text (R75, D19). Raised by stores; safe. -/
  | storeToText
deriving DecidableEq, Repr

/-- After power-up or RESET, as R44's table gives it: real-address mode, in which the model runs nothing (R301,
D2). EAX is 0, the self test having passed; EDX holds the processor signature, a free value. Assumption log 20. -/
def State.powerUp : State :=
  { rip := 0xFFF0
    gpr := (Vector.replicate 16 0).set 2 (Config.processorSignature.setWidth 64)
    ymm := Vector.replicate 16 0
    x87 := Vector.replicate 8 0
    top := 0
    ftw := 0x5555
    fpend := false
    rflags := 0x2
    cr0 := 0x60000010
    cr4 := 0
    xcr0 := 1
    cpl := 0
    breakpoints := false
    mem := []
    program := none
    cfg := { Config.launch with
      mode := .mode32
      seg := { Segments.flat with cs := { Segment.flat with base := 0xFFFF0000 } } }
    draws := 0 }

/-- The state the model starts from: the spec starts no run at RESET but at a launch state (R44, R300, D3), so
this is R44's state with what R300 and R34 require of a launch: Mode64, CR0.PE, CR4.OSFXSR, CR4.OSXSAVE and
XCR0[2:1] set, flat segments, and EDX 0. No program is loaded. Assumption logs 1, 16. -/
def State.reset : State :=
  { rip := 0xFFF0
    gpr := Vector.replicate 16 0
    ymm := Vector.replicate 16 0
    x87 := Vector.replicate 8 0
    top := 0
    ftw := 0x5555
    fpend := false
    rflags := 0x2
    cr0 := 0x60000011
    cr4 := 0x40200
    xcr0 := 7
    cpl := 0
    breakpoints := false
    mem := []
    program := none
    cfg := Config.launch
    draws := 0 }

end Sys2Proof.Machine
end

