-- ==== Sys2Proof/Machine/Memory.lean ====
section
/-! DEFINITION. Reading and writing bytes of memory (20_memory.md R50, R51; 00_scope.md R10). -/

namespace Sys2Proof.Machine

/-- What a location that memory does not list reads as: DESIGN CHOICE, assumption log 2. -/
def Memory.unlisted : Byte := 0

/-- The canonical form: locations strictly rise, lie in the 64-bit address space, and no entry equals what an
unlisted location reads as. -/
abbrev Memory.wf (m : Memory) : Prop :=
  m.Pairwise (fun c d => c.1 < d.1) ∧ ∀ c ∈ m, c.1 < 2 ^ 64 ∧ c.2 ≠ Memory.unlisted

/-- The byte at a location. -/
def Memory.read (m : Memory) (a : Nat) : Byte :=
  match m with
  | [] => Memory.unlisted
  | c :: rest => if c.1 = a then c.2 else Memory.read rest a

/-- Puts a byte at a location, keeping the canonical form. -/
def Memory.write (m : Memory) (a : Nat) (v : Byte) : Memory :=
  match m with
  | [] => if v = Memory.unlisted then [] else [(a, v)]
  | c :: rest =>
    if a < c.1 then (if v = Memory.unlisted then c :: rest else (a, v) :: c :: rest)
    else if a = c.1 then (if v = Memory.unlisted then rest else (a, v) :: rest)
    else c :: Memory.write rest a v

/-- The bytes at several locations. -/
def Memory.readAll (m : Memory) (locs : List Nat) : List Byte :=
  locs.map m.read

/-- Puts bytes at locations, pairwise, from the first on. -/
def Memory.writeAll (m : Memory) (locs : List Nat) (bs : List Byte) : Memory :=
  match locs, bs with
  | a :: locs', b :: bs' => Memory.writeAll (m.write a b) locs' bs'
  | _, _ => m

/-- The number that little-endian bytes stand for (R51). -/
def leNat (bs : List Byte) : Nat :=
  match bs with
  | [] => 0
  | b :: rest => b.toNat + 256 * leNat rest

/-- The value of little-endian bytes: byte k is bits 8k+7:8k (R10). -/
def leValue (w : Nat) (bs : List Byte) : BitVec w :=
  BitVec.ofNat w (leNat bs)

/-- The little-endian bytes of a value: byte k is bits 8k+7:8k (R10). -/
def leBytes {w : Nat} (n : Nat) (v : BitVec w) : List Byte :=
  (List.range n).map fun k => v.extractLsb' (8 * k) 8

end Sys2Proof.Machine
end

