-- ==== Sys2Proof/Machine/Flags.lean ====
section
/-! DEFINITION. The flag, status and control bits that an instruction in scope reads (10_state.md R23, R31 to R36).
No instruction in scope computes or writes a flag (R23). -/

namespace Sys2Proof.Machine

/-- RFLAGS.AC, bit 18 (R23). -/
def State.ac (s : State) : Bool := s.rflags.getLsbD 18

/-- RFLAGS.TF; PRESUMED bit 8 (R289, R300; assumption log 10). -/
def State.tf (s : State) : Bool := s.rflags.getLsbD 8

/-- RFLAGS.VM; PRESUMED bit 17 (R300; assumption log 10). -/
def State.vm (s : State) : Bool := s.rflags.getLsbD 17

/-- CR0.PE, bit 0 (R31). -/
def State.pe (s : State) : Bool := s.cr0.getLsbD 0

/-- CR0.EM, bit 2 (R31). -/
def State.em (s : State) : Bool := s.cr0.getLsbD 2

/-- CR0.TS, bit 3 (R31). -/
def State.ts (s : State) : Bool := s.cr0.getLsbD 3

/-- CR0.AM, bit 18 (R31). -/
def State.am (s : State) : Bool := s.cr0.getLsbD 18

/-- CR4.OSFXSR, bit 9 (R32). -/
def State.osfxsr (s : State) : Bool := s.cr4.getLsbD 9

/-- CR4.OSXSAVE, bit 18 (R32). -/
def State.osxsave (s : State) : Bool := s.cr4.getLsbD 18

/-- XCR0[2:1] = 11b: SSE and AVX state are enabled (R33). -/
def State.avxState (s : State) : Bool := s.xcr0.getLsbD 1 && s.xcr0.getLsbD 2

/-- AlignCheck (R56): CR0.AM = 1, RFLAGS.AC = 1 and CPL = 3. -/
def State.alignCheck (s : State) : Bool := s.am && s.ac && decide (s.cpl = 3)

/-- A CPUID feature flag (R36). -/
def State.has (s : State) (f : Feature) : Bool :=
  match f with
  | .mmx => s.cfg.cpuid.mmx
  | .sse => s.cfg.cpuid.sse
  | .sse2 => s.cfg.cpuid.sse2
  | .sse3 => s.cfg.cpuid.sse3
  | .sse41 => s.cfg.cpuid.sse41
  | .avx => s.cfg.cpuid.avx
  | .avx2 => s.cfg.cpuid.avx2

/-- VLMAX, the width of a vector register (R6, D1). -/
def State.vlmax (s : State) : Nat := if s.has .avx then 256 else 128

end Sys2Proof.Machine
end

