-- ==== Sys2Proof/Machine/Operands.lean ====
section
/-! DEFINITION. Operands: register numbers (30_encoding.md R105 to R107), the register files (10_state.md R20 to
R29), and the effective and linear address of a memory operand (R100 to R104). -/

namespace Sys2Proof

/-! ### Register numbers -/

/-- A three-bit field with its extension bit in front. -/
def extend (bit : Bool) (n : BitVec 3) : RegNum := BitVec.ofBool bit ++ n

/-- REX.R, 0 when there is no REX (R84). -/
def rexR (rex : Option Rex) : Bool :=
  match rex with
  | some r => r.r
  | none => false

/-- REX.X, 0 when there is no REX (R84). -/
def rexX (rex : Option Rex) : Bool :=
  match rex with
  | some r => r.x
  | none => false

/-- REX.B, 0 when there is no REX (R84). -/
def rexB (rex : Option Rex) : Bool :=
  match rex with
  | some r => r.b
  | none => false

/-- I.reg, the number of the ModRM:reg operand (R105, R106). -/
def Legacy.regNum {α : Type} (e : Legacy α) : RegNum := extend (rexR e.rex) e.reg

/-- I.reg, the number of the ModRM:reg operand (R105, R106). -/
def Vex.regNum {α : Type} (e : Vex α) : RegNum := extend e.form.r e.reg

/-- I.rm of a register-only row (R105). -/
def Legacy.rmNum (e : Legacy RegField) : RegNum := extend (rexB e.rex) e.rm

/-- I.rm of a register-only row (R105). -/
def Vex.rmNum (e : Vex RegField) : RegNum := extend e.form.b e.rm

/-- A memory operand with all that its address depends on besides the state (R100 to R104): the addressing form,
the extension bits X and B, the prefixes, and I.len. -/
structure MemRef where
  op : MemOp
  x : Bool
  b : Bool
  prefixes : List Prefix
  len : Nat
deriving DecidableEq, Repr

/-- An r/m operand: a register number or a memory operand (R12, I.isMem). -/
inductive Operand where
  | reg (n : RegNum)
  | mem (r : MemRef)
deriving DecidableEq, Repr

/-- I.len of a legacy encoding whose r/m operand is a register. -/
def Legacy.lenReg (e : Legacy RegField) (map : OpMap) : Nat := legacyLen map (e.map RM.reg)

/-- I.len of a legacy encoding whose r/m operand is memory. -/
def Legacy.lenMem (e : Legacy MemOp) (map : OpMap) : Nat := legacyLen map (e.map RM.mem)

/-- I.len of a VEX encoding whose r/m operand is a register. -/
def Vex.lenReg (e : Vex RegField) : Nat := vexLen (e.map RM.reg)

/-- I.len of a VEX encoding whose r/m operand is memory. -/
def Vex.lenMem (e : Vex MemOp) : Nat := vexLen (e.map RM.mem)

/-- The memory operand of a legacy encoding. -/
def Legacy.memRef (e : Legacy MemOp) (map : OpMap) : MemRef :=
  { op := e.rm, x := rexX e.rex, b := rexB e.rex, prefixes := e.prefixes, len := e.lenMem map }

/-- The memory operand of a VEX encoding. -/
def Vex.memRef (e : Vex MemOp) : MemRef :=
  { op := e.rm, x := e.form.x, b := e.form.b, prefixes := e.prefixes, len := e.lenMem }

/-- The r/m operand of a legacy encoding that takes both kinds. -/
def Legacy.operand (e : Legacy RM) (map : OpMap) : Operand :=
  match e.rm with
  | .reg n => .reg (extend (rexB e.rex) n)
  | .mem op =>
    .mem { op := op, x := rexX e.rex, b := rexB e.rex, prefixes := e.prefixes, len := legacyLen map e }

/-- The r/m operand of a VEX encoding that takes both kinds. -/
def Vex.operand (e : Vex RM) : Operand :=
  match e.rm with
  | .reg n => .reg (extend e.form.b n)
  | .mem op => .mem { op := op, x := e.form.x, b := e.form.b, prefixes := e.prefixes, len := vexLen e }

end Sys2Proof

namespace Sys2Proof.Machine

/-! ### Registers -/

/-- GPR[n] (R20). -/
def State.gprAt (s : State) (n : RegNum) : QWord := s.gpr.get n.toFin

/-- YMM[n] (R24). -/
def State.ymmAt (s : State) (n : RegNum) : YWord := s.ymm.get n.toFin

/-- XMM[n], which is YMM[n][127:0] (R9). -/
def State.xmmAt (s : State) (n : RegNum) : DQWord := (s.ymmAt n).extractLsb' 0 128

/-- The low quadword of a vector register, bits 63:0. -/
def State.lowAt (s : State) (n : RegNum) : QWord := (s.ymmAt n).extractLsb' 0 64

/-- The high quadword of an XMM register, bits 127:64. -/
def State.highAt (s : State) (n : RegNum) : QWord := (s.ymmAt n).extractLsb' 64 64

/-- MM[n], the low 64 bits of a physical x87 data register (R26, R27). -/
def State.mmAt (s : State) (n : MmxNum) : QWord := (s.x87.get n.toFin).extractLsb' 0 64

/-- GPR[n] <- v. -/
def State.setGpr (s : State) (n : RegNum) (v : QWord) : State :=
  { s with gpr := s.gpr.set n.toNat v n.isLt }

/-- Writes the 64-bit register in Mode64, its bits 31:0 in Mode32 (R21, 44_movmsk.md (b)). -/
def State.setGprByMode (s : State) (n : RegNum) (v : QWord) : State :=
  match s.cfg.mode with
  | .mode64 => s.setGpr n v
  | .mode32 => s.setGpr n ((s.gprAt n).extractLsb' 32 32 ++ v.extractLsb' 0 32)

/-- YMM[n] <- v. The register is VLMAX bits wide, so with VLMAX = 128 bits 255:128, which are no register bits,
keep what they hold (R24; assumption log 14). -/
def State.setYmm (s : State) (n : RegNum) (v : YWord) : State :=
  { s with
    ymm := s.ymm.set n.toNat
      (if s.vlmax = 256 then v else (s.ymmAt n).extractLsb' 128 128 ++ v.extractLsb' 0 128) n.isLt }

/-- The write of a legacy encoding: bits 127:0, the bits above unchanged (R25 (a)). -/
def State.setXmmKeep (s : State) (n : RegNum) (v : DQWord) : State :=
  s.setYmm n ((s.ymmAt n).extractLsb' 128 128 ++ v)

/-- The write of a VEX.128 encoding: bits 127:0, the bits above zeroed (R25 (b)). -/
def State.setXmmZero (s : State) (n : RegNum) (v : DQWord) : State :=
  s.setYmm n (0#128 ++ v)

/-- MM[n] <- v: the write also sets bits 79:64 of the x87 register to ones (R27). -/
def State.setMm (s : State) (n : MmxNum) (v : QWord) : State :=
  { s with x87 := s.x87.set n.toNat (0xFFFF#16 ++ v) n.isLt }

/-- MMXTransition (R29). -/
def State.mmxTransition (s : State) : State :=
  { s with top := 0, ftw := 0 }

/-! ### Addresses -/

/-- An address `k` bytes on, modulo 2^64 in Mode64 and 2^32 in Mode32 (R7; assumption log 23). -/
def addrAdd (m : Mode) (a : QWord) (k : Nat) : QWord :=
  match m with
  | .mode64 => a + BitVec.ofNat 64 k
  | .mode32 => (a.setWidth 32 + BitVec.ofNat 32 k).setWidth 64

/-- The address after an instruction of `len` bytes: RIP + I.len, in Mode32 modulo 2^32 (R22, R108). -/
def State.nextRip (s : State) (len : Nat) : QWord := addrAdd s.cfg.mode s.rip len

/-- The address sizes (R103). -/
inductive AddrSize where
  | a64 | a32 | a16
deriving DecidableEq, Repr

/-- The address size of the mode, or the other one with a 67 prefix (R103). -/
def addrSize (m : Mode) (ps : List Prefix) : AddrSize :=
  match m with
  | .mode64 => if Prefix.addrSize ∈ ps then .a32 else .a64
  | .mode32 => if Prefix.addrSize ∈ ps then .a16 else .a32

/-- The displacement, sign-extended (R87). -/
def dispValue (w : Nat) (d : Disp) : BitVec w :=
  match d with
  | .none => 0
  | .d8 v => v.signExtend w
  | .d32 v => v.signExtend w

/-- The displacement of a 16-bit form, sign-extended (R87). -/
def disp16Value (d : Disp16) : BitVec 16 :=
  match d with
  | .none => 0
  | .d8 v => v.signExtend 16
  | .d16 v => v

/-- The scaled index: 0 for the number 0100b, else the register times 2^scale (R86, R100). -/
def indexValue {w : Nat} (rd : RegNum → BitVec w) (x : Bool) (scale : BitVec 2) (index : BitVec 3) : BitVec w :=
  if extend x index = 4 then 0 else rd (extend x index) <<< scale.toNat

/-- The offset under 64- and 32-bit addressing (R100, R101): `rd` reads a register at the address size, `next` is
RIP + I.len, and `ripRel` says whether mod = 00b, rm = 101b is RIP-relative. The 16-bit forms are no forms of this
addressing. -/
def wideOffset {w : Nat} (rd : RegNum → BitVec w) (next : BitVec w) (ripRel x b : Bool) (op : MemOp) : BitVec w :=
  match op with
  | .base rm d => rd (extend b rm) + dispValue w d
  | .sib sc ix bs d => rd (extend b bs) + indexValue rd x sc ix + dispValue w d
  | .sibNoBase sc ix d => indexValue rd x sc ix + d.signExtend w
  | .disp32 d => (if ripRel then next else 0) + d.signExtend w
  | .base16 _ _ => 0
  | .disp16 _ => 0

/-- The sum of base registers that rm names under 16-bit addressing (R102): `rd` reads bits 15:0. -/
def base16Value (rd : RegNum → BitVec 16) (rm : BitVec 3) : BitVec 16 :=
  if rm = 0 then rd 3 + rd 6
  else if rm = 1 then rd 3 + rd 7
  else if rm = 2 then rd 5 + rd 6
  else if rm = 3 then rd 5 + rd 7
  else if rm = 4 then rd 6
  else if rm = 5 then rd 7
  else if rm = 6 then rd 5
  else rd 3

/-- The offset under 16-bit addressing (R102). -/
def offset16 (rd : RegNum → BitVec 16) (op : MemOp) : BitVec 16 :=
  match op with
  | .base16 rm d => base16Value rd rm + disp16Value d
  | .disp16 d => d
  | .base _ _ => 0
  | .sib _ _ _ _ => 0
  | .sibNoBase _ _ _ => 0
  | .disp32 _ => 0

/-- The effective address, zero-extended to 64 bits (R100 to R102). -/
def State.offset (s : State) (r : MemRef) : QWord :=
  match addrSize s.cfg.mode r.prefixes with
  | .a64 => wideOffset s.gprAt (s.nextRip r.len) true r.x r.b r.op
  | .a32 =>
    (wideOffset (fun n => (s.gprAt n).setWidth 32) ((s.nextRip r.len).setWidth 32) (decide (s.cfg.mode = .mode64))
      r.x r.b r.op).setWidth 64
  | .a16 => (offset16 (fun n => (s.gprAt n).setWidth 16) r.op).setWidth 64

/-- The segment that a segment-override prefix names (R104). -/
def segOverride (ps : List Prefix) : Option Seg :=
  match ps with
  | [] => none
  | .seg g :: _ => some g
  | _ :: rest => segOverride rest

/-- Whether a base register has SS as its default segment: RSP or RBP (R104). -/
def isStackBase (n : RegNum) : Bool := decide (n = 4) || decide (n = 5)

/-- The segment of a memory operand that no override names (R102, R104). -/
def defaultSeg (b : Bool) (op : MemOp) : Seg :=
  match op with
  | .base rm _ => if isStackBase (extend b rm) then .ss else .ds
  | .sib _ _ bs _ => if isStackBase (extend b bs) then .ss else .ds
  | .sibNoBase _ _ _ => .ds
  | .disp32 _ => .ds
  | .base16 rm _ => if rm = 2 ∨ rm = 3 ∨ rm = 6 then .ss else .ds
  | .disp16 _ => .ds

/-- The segment of a memory operand (R104). -/
def segOf (r : MemRef) : Seg :=
  match segOverride r.prefixes with
  | some g => g
  | none => defaultSeg r.b r.op

/-- The hidden part of a segment register (R38). -/
def State.segment (s : State) (g : Seg) : Segment :=
  match g with
  | .es => s.cfg.seg.es
  | .cs => s.cfg.seg.cs
  | .ss => s.cfg.seg.ss
  | .ds => s.cfg.seg.ds
  | .fs => s.cfg.seg.fs
  | .gs => s.cfg.seg.gs

/-- SegBase as the linear address takes it: in Mode64 those of CS, DS, ES, SS are 0 (R60, R104). -/
def State.segBase (s : State) (g : Seg) : QWord :=
  match s.cfg.mode with
  | .mode32 => (s.segment g).base
  | .mode64 =>
    match g with
    | .fs | .gs => (s.segment g).base
    | .es | .cs | .ss | .ds => 0

/-- I.la: the segment base plus the offset, truncated to 64 bits in Mode64 and to 32 in Mode32 (R60, R104). -/
def State.linear (s : State) (r : MemRef) : QWord :=
  match s.cfg.mode with
  | .mode64 => s.segBase (segOf r) + s.offset r
  | .mode32 => ((s.segBase (segOf r) + s.offset r).setWidth 32).setWidth 64

/-- The byte addresses of an `n`-byte access at `a`: a, a+1, ..., a+n-1 (R10). -/
def byteAddrs (m : Mode) (a : QWord) (n : Nat) : List QWord :=
  (List.range n).map (addrAdd m a)

/-- MemType(a): WB unless a region says otherwise (R6, D24); no rule reads it (R70). -/
def State.memType (s : State) (a : QWord) : MemType :=
  match s.cfg.memTypes.find? fun g => decide ((a - g.base).toNat < g.size) with
  | some g => g.type
  | none => .wb

end Sys2Proof.Machine
end

