-- ==== Sys2Proof/Machine/Ops.lean ====
section
/-! DEFINITION. The shared operations: raising an exception (R280 to R282), the checks before execution (R270 to
R274), the checks of a memory access and the access itself (R10, R54 to R65), the shapes of a move, and the fetch
(R14, R304). -/

namespace Sys2Proof.Machine

/-! ### Exceptions -/

/-- The exceptions an instruction in scope can raise (R260); error codes other than 0 come with the answer. -/
inductive Exn where
  | ud | nm | ss | gp | mf | ac
  | pf (code : BitVec 32) (addr : QWord)
deriving DecidableEq, Repr

/-- What is recorded of an exception at the instruction at `rip` (R260, R281): the error code is 0 for #SS, #GP
and #AC, the oracle's for #PF, and none for the others. -/
def exnFault (e : Exn) (rip : QWord) : Fault :=
  match e with
  | .ud => .ud rip
  | .nm => .nm rip
  | .ss => .ss 0 rip
  | .gp => .gp 0 rip
  | .mf => .mf rip
  | .ac => .ac 0 rip
  | .pf code addr => .pf code rip addr

/-- Taking an exception: the terminal outcome of R280, the state being that before the instruction (R11, R282).
There is no return from one (R283). Assumption log 8. -/
def raise (e : Exn) (s : State) : Host.Outcome State Fault Refusal := .fault (exnFault e s.rip)

/-- The vector of a fault (R260). -/
def faultVector (f : Fault) : Nat :=
  match f with
  | .ud _ => 6
  | .nm _ => 7
  | .ss _ _ => 12
  | .gp _ _ => 13
  | .pf _ _ _ => 14
  | .mf _ => 16
  | .ac _ _ => 17

/-- The error code of a fault, where it has one (R260, R281). -/
def faultErrorCode (f : Fault) : Option (BitVec 32) :=
  match f with
  | .ud _ => none
  | .nm _ => none
  | .ss c _ => some c
  | .gp c _ => some c
  | .pf c _ _ => some c
  | .mf _ => none
  | .ac c _ => some c

/-- The outcome of a check, or of an operation that checks first. -/
inductive Check (α : Type) where
  | ok (a : α)
  | raise (e : Exn)
  | refuse (r : Refusal)
deriving DecidableEq, Repr

/-- Goes on with what a check answers. -/
def Check.bind {α β : Type} (c : Check α) (f : α → Check β) : Check β :=
  match c with
  | .ok a => f a
  | .raise e => .raise e
  | .refuse r => .refuse r

/-- The end of every instruction of `len` bytes: RIP <- RIP + I.len when it completes, nothing when it does not
(R11, R108). -/
def complete (len : Nat) (s : State) (c : Check State) : Host.Outcome State Fault Refusal :=
  match c with
  | .ok t => .next { t with rip := s.nextRip len }
  | .raise e => raise e s
  | .refuse r => .refused r

/-! ### Checks before execution -/

/-- Raises `e` where `bad` holds. -/
def failIf (bad : Bool) (e : Exn) : Check Unit := if bad then .raise e else .ok ()

/-- CheckSSE(f) (R270). -/
def checkSSE (f : Feature) (s : State) : Check Unit :=
  (failIf s.em .ud).bind fun _ => (failIf (!s.osfxsr) .ud).bind fun _ => (failIf (!s.has f) .ud).bind fun _ =>
    failIf s.ts .nm

/-- CheckVEX(f) (R271). -/
def checkVEX (f : Feature) (s : State) : Check Unit :=
  (failIf (!s.osxsave) .ud).bind fun _ => (failIf (!s.avxState) .ud).bind fun _ =>
    (failIf (!s.has f) .ud).bind fun _ => failIf s.ts .nm

/-- CheckMMX(f) (R272). -/
def checkMMX (f : Feature) (s : State) : Check Unit :=
  (failIf s.em .ud).bind fun _ => (failIf (!s.has f) .ud).bind fun _ => (failIf s.ts .nm).bind fun _ =>
    failIf s.fpend .mf

/-- CheckMOVNTI (R273). -/
def checkMOVNTI (s : State) : Check Unit := failIf (!s.has .sse2) .ud

/-- CheckMOVDQ2Q (R274). -/
def checkMOVDQ2Q (s : State) : Check Unit :=
  (failIf s.em .ud).bind fun _ => (failIf (!s.osfxsr) .ud).bind fun _ => (failIf (!s.has .sse2) .ud).bind fun _ =>
    (failIf s.ts .nm).bind fun _ => failIf s.fpend .mf

/-! ### The checks of a memory access (R58) -/

/-- What an instruction asks of the alignment of its memory operand (R54 to R56). -/
inductive AlignRule where
  /-- A multiple of `n`, else #GP(0) (R54). -/
  | required (n : Nat)
  /-- Any address; #AC(0) on an address that is no multiple of `n` under alignment checking (R56 (b)). -/
  | definite (n : Nat)
  /-- Any address; #AC(0) by a draw on an address that is no multiple of `n` under alignment checking (R56 (a),
  (c)). -/
  | draw (n : Nat)
deriving DecidableEq, Repr

/-- A linear address is canonical: bits 63:LA_BITS-1 are all equal (R59). -/
def canonical (laBits : Nat) (a : QWord) : Bool :=
  decide (a.sshiftRight (laBits - 1) = 0) || decide (a.sshiftRight (laBits - 1) = BitVec.allOnes 64)

/-- The access passes offset FFFFH under 16-bit addressing (R57). -/
def State.passesSegmentEnd (s : State) (r : MemRef) (n : Nat) : Bool :=
  decide (addrSize s.cfg.mode r.prefixes = .a16) && decide (0xFFFF < (s.offset r).toNat + (n - 1))

/-- In Mode32 the segment is not null and, for a write, is writable; in Mode64 neither is asked (R263). -/
def State.segmentUsable (s : State) (kind : AccessKind) (r : MemRef) : Bool :=
  match s.cfg.mode with
  | .mode64 => true
  | .mode32 => !(s.segment (segOf r)).null && (decide (kind = .read) || (s.segment (segOf r)).writable)

/-- In Mode64 every byte's address is canonical; in Mode32 every byte's offset, modulo 2^32, lies within the limit
of the segment (R58, R263; assumption log 13). -/
def State.addressInside (s : State) (r : MemRef) (n : Nat) : Bool :=
  match s.cfg.mode with
  | .mode64 => (byteAddrs .mode64 (s.linear r) n).all (canonical s.cfg.laBits)
  | .mode32 =>
    (byteAddrs .mode32 (s.offset r) n).all fun o => decide (o.toNat ≤ (s.segment (segOf r)).limit.toNat)

/-- Step 1 of R58, with R263. -/
def State.addressForm (s : State) (kind : AccessKind) (r : MemRef) (n : Nat) : Bool :=
  s.segmentUsable kind r && s.addressInside r n

/-- The fault of a bad address: #GP(0) for a null segment or a write to a read-only one, SS among them (R263); for a
non-canonical address or an offset outside the limit, #SS(0) through SS and #GP(0) through any other segment (R264).
Where both hold of SS, #GP(0) (assumption log 13). -/
def State.addressExn (s : State) (kind : AccessKind) (r : MemRef) : Exn :=
  if s.segmentUsable kind r = true ∧ segOf r = .ss then .ss else .gp

/-- A rule of the oracle speaks of this access to a byte. -/
def AccessRule.covers (rule : AccessRule) (kind : AccessKind) (cpl : Fin 4) (a : QWord) : Bool :=
  decide ((a - rule.base).toNat < rule.size) && (decide (rule.kind = none) || decide (rule.kind = some kind)) &&
    (decide (rule.cpl = none) || decide (rule.cpl = some cpl))

/-- What the oracle Access answers for one byte: the first rule that covers it, "ok, identity" where none does
(R6, R61). DESIGN CHOICE: a location is 64 bits wide, and the locations and faulting addresses that a rule gives to
its bytes after the first follow on modulo 2^64 (assumption log 5). -/
def State.accessByte (s : State) (kind : AccessKind) (a : QWord) : AccessAnswer :=
  match s.cfg.access.find? fun rule => AccessRule.covers rule kind s.cpl a with
  | none => .ok a
  | some rule =>
    match rule.answer with
    | .ok phys => .ok (phys + (a - rule.base))
    | .pf code addr => .pf code (addr + (a - rule.base))
    | .gp => .gp
    | .ss => .ss
    | .device => .device

/-- Step 3 of R58: the locations of the bytes, or what the first byte that is not "ok" answers (R61, R65). -/
def State.translate (s : State) (kind : AccessKind) (as : List QWord) : Check (List Nat) :=
  match as with
  | [] => .ok []
  | a :: rest =>
    match s.accessByte kind a with
    | .ok phys => (State.translate s kind rest).bind fun locs => .ok (phys.toNat :: locs)
    | .pf code addr => .raise (.pf code addr)
    | .gp => .raise .gp
    | .ss => .raise .ss
    | .device => .refuse .device

/-- Step 2 of R58: the alignment that R54 requires. -/
def alignRequired (al : AlignRule) (la : QWord) : Check Unit :=
  match al with
  | .required n => failIf (decide (la.toNat % n ≠ 0)) .gp
  | .definite _ => .ok ()
  | .draw _ => .ok ()

/-- Step 4 of R58: alignment checking (R56). A draw reads the free value at the counter, which advances. -/
def alignChecked (al : AlignRule) (la : QWord) (s : State) : Check State :=
  match al with
  | .required _ => .ok s
  | .definite n => if s.alignCheck = true ∧ la.toNat % n ≠ 0 then .raise .ac else .ok s
  | .draw n =>
    if s.alignCheck = true ∧ la.toNat % n ≠ 0 then
      (if Config.acDraw s.draws then .raise .ac else .ok { s with draws := s.draws + 1 })
    else .ok s

/-- The location an instruction byte is fetched from: the program text is always fetchable (D19; assumption log
6). -/
def State.fetchLoc (s : State) (a : QWord) : Nat :=
  match s.accessByte .read a with
  | .ok phys => phys.toNat
  | .pf _ _ => a.toNat
  | .gp => a.toNat
  | .ss => a.toNat
  | .device => a.toNat

/-- An address lies in the program text, as the launch gives its extent (R300, R304). DESIGN CHOICE: where no program
is loaded, or RIP stands outside the extent, the bytes a step fetches are no program text, and a store over them is
carried out (R42, R75; assumption log 27). -/
def State.inText (s : State) (a : QWord) : Bool :=
  match s.program with
  | none => false
  | some p => decide ((a - p.start).toNat < (p.stop - p.start).toNat)

/-- A location holds a byte of the program text: the addresses that can be fetched from it are the location
itself and, for each rule that answers "ok", the address the rule takes there (assumption log 22). -/
def State.isTextLoc (s : State) (loc : Nat) : Bool :=
  (BitVec.ofNat 64 loc :: s.cfg.access.filterMap fun rule =>
    match rule.answer with
    | .ok phys => some (rule.base + (BitVec.ofNat 64 loc - phys))
    | .pf _ _ | .gp | .ss | .device => none).any fun a => s.inText a && decide (s.fetchLoc a = loc)

/-- Step 5 of R58: the access overlaps the program text (R75). -/
def State.overlapsText (s : State) (as : List QWord) (locs : List Nat) : Bool :=
  as.any s.inText || locs.any s.isTextLoc

/-- Step 5 of R58 for an access of this kind. -/
def State.textCheck (s : State) (kind : AccessKind) (as : List QWord) (locs : List Nat) : Check Unit :=
  match kind with
  | .read => .ok ()
  | .write => if s.overlapsText as locs then .refuse .storeToText else .ok ()

/-- All the checks of an `n`-byte access, in the order of R58, after the case that R57 leaves open: the state with
the draw counter advanced, and the locations of the bytes. -/
def memAccess (kind : AccessKind) (al : AlignRule) (n : Nat) (r : MemRef) (s : State) : Check (State × List Nat) :=
  if s.passesSegmentEnd r n then .refuse .segmentEnd16
  else
    (failIf (!s.addressForm kind r n) (s.addressExn kind r)).bind fun _ =>
      (alignRequired al (s.linear r)).bind fun _ =>
        (s.translate kind (byteAddrs s.cfg.mode (s.linear r) n)).bind fun locs =>
          (alignChecked al (s.linear r) s).bind fun t =>
            (s.textCheck kind (byteAddrs s.cfg.mode (s.linear r) n) locs).bind fun _ => .ok (t, locs)

/-! ### Memory operands -/

/-- MemRead of a `w`-bit operand (R10): the value and the state after the checks. -/
def loadMem (w : Nat) (al : AlignRule) (r : MemRef) (s : State) : Check (BitVec w × State) :=
  (memAccess .read al (w / 8) r s).bind fun t => .ok (leValue w (t.1.mem.readAll t.2), t.1)

/-- MemWrite of a `w`-bit value (R10): all bytes or none (R63). -/
def storeMem {w : Nat} (al : AlignRule) (r : MemRef) (v : BitVec w) (s : State) : Check State :=
  (memAccess .write al (w / 8) r s).bind fun t => .ok { t.1 with mem := t.1.mem.writeAll t.2 (leBytes (w / 8) v) }

/-- Reads an r/m operand: a register by `rd`, or memory. -/
def readOperand (w : Nat) (al : AlignRule) (rd : RegNum → BitVec w) (o : Operand) (s : State) :
    Check (BitVec w × State) :=
  match o with
  | .reg n => .ok (rd n, s)
  | .mem r => loadMem w al r s

/-- Writes an r/m operand: a register by `wr`, or memory. -/
def writeOperand {w : Nat} (al : AlignRule) (wr : State → RegNum → BitVec w → State) (o : Operand) (v : BitVec w)
    (s : State) : Check State :=
  match o with
  | .reg n => .ok (wr s n v)
  | .mem r => storeMem al r v s

/-! ### The shapes of a move: checks, then the move, then RIP <- RIP + I.len -/

/-- A move within the registers. -/
def regMove (chk : State → Check Unit) (len : Nat) (f : State → State) (s : State) :
    Host.Outcome State Fault Refusal :=
  complete len s ((chk s).bind fun _ => .ok (f s))

/-- A move from an r/m operand; `wr` puts the value into the destination. -/
def moveIn {w : Nat} (chk : State → Check Unit) (len : Nat) (al : AlignRule) (rd : State → RegNum → BitVec w)
    (o : Operand) (wr : State → BitVec w → State) (s : State) : Host.Outcome State Fault Refusal :=
  complete len s ((chk s).bind fun _ => (readOperand w al (rd s) o s).bind fun t => .ok (wr t.2 t.1))

/-- A move to an r/m operand, `wr` being the write of a register; `post` is done after it. -/
def moveOut {w : Nat} (chk : State → Check Unit) (len : Nat) (al : AlignRule) (v : State → BitVec w) (o : Operand)
    (wr : State → RegNum → BitVec w → State) (post : State → State) (s : State) :
    Host.Outcome State Fault Refusal :=
  complete len s ((chk s).bind fun _ => (writeOperand al wr o (v s) s).bind fun t => .ok (post t))

/-- A move from memory. -/
def load {w : Nat} (chk : State → Check Unit) (al : AlignRule) (r : MemRef) (wr : State → BitVec w → State)
    (s : State) : Host.Outcome State Fault Refusal :=
  complete r.len s ((chk s).bind fun _ => (loadMem w al r s).bind fun t => .ok (wr t.2 t.1))

/-- A move to memory; `post` is done after it. -/
def store {w : Nat} (chk : State → Check Unit) (al : AlignRule) (r : MemRef) (v : State → BitVec w)
    (post : State → State) (s : State) : Host.Outcome State Fault Refusal :=
  complete r.len s ((chk s).bind fun _ => (storeMem al r (v s) s).bind fun t => .ok (post t))

/-! ### Steps: context, end of run, fetch -/

/-- Why the model runs nothing in this state, if so: real-address mode, virtual-8086 mode (D2), debug features
(D29). Assumption log 10. -/
def State.contextRefusal (s : State) : Option Refusal :=
  if !s.pe then some .realAddressMode
  else if s.vm then some .virtual8086
  else if s.tf || s.breakpoints then some .debugEnabled
  else none

/-- The run has ended: RIP = END (R304). -/
def State.atEnd (s : State) : Bool :=
  match s.program with
  | none => false
  | some p => decide (s.rip = p.stop)

/-- The locations of the 15 bytes at RIP, the longest an instruction can be (R89). -/
def State.fetchLocs (s : State) : List Nat :=
  (byteAddrs s.cfg.mode s.rip 15).map s.fetchLoc

/-- The 15 bytes at RIP (R14, R51, R110). -/
def State.fetchBytes (s : State) : List Byte :=
  s.mem.readAll s.fetchLocs

/-- The refusal of bytes that the decoder gives no meaning (R117, R118). -/
def decodeRefusal (r : DecodeRefusal) : Refusal :=
  match r with
  | .outsideTable => .outsideTable
  | .prefixSet => .prefixSet
  | .vexMode32 => .vexMode32

/-- Loads a program of one instruction at RIP: its bytes where the fetch reads them, and END just past it
(R300; assumption log 16). -/
def State.loadInstruction (s : State) (bs : List Byte) : State :=
  { s with
    mem := s.mem.writeAll s.fetchLocs bs
    program := some
      { start := s.rip
        stop :=
          match decode s.cfg.mode bs with
          | .instr i => s.nextRip (encode i).length
          | .ud _ => s.nextRip 15
          | .outOfBytes => s.nextRip 15
          | .refused _ => s.nextRip 15 } }

end Sys2Proof.Machine
end

