-- ==== Sys2Proof/Machine/MovHL.lean ====
section
/-! DEFINITION. MOVHLPS, MOVLHPS, MOVHPD, MOVHPS, MOVLPD, MOVLPS and their VEX forms (43_movh_movl.md). -/

namespace Sys2Proof.Machine

/-- MOVHLPS xmm1, xmm2 (R165): low half <- the high half of I.rm, high half <- that of the destination; bits 255:128
kept. -/
def execMovhlps (e : Legacy RegField) (s : State) : Host.Outcome State Fault Refusal :=
  regMove (checkSSE .sse) (e.lenReg .m0F) (fun t => t.setXmmKeep e.regNum (t.highAt e.regNum ++ t.highAt e.rmNum)) s

/-- VMOVHLPS xmm1, xmm2, xmm3 (R166): low half <- the high half of I.rm, high half <- that of I.v; bits 255:128
zeroed. -/
def execVmovhlps (v : RegNum) (e : Vex RegField) (s : State) : Host.Outcome State Fault Refusal :=
  regMove (checkVEX .avx) e.lenReg (fun t => t.setXmmZero e.regNum (t.highAt v ++ t.highAt e.rmNum)) s

/-- MOVHPD xmm, m64 (R167): high half <- memory, low half <- that of the destination; bits 255:128 kept. -/
def execMovhpdLoad (e : Legacy MemOp) (s : State) : Host.Outcome State Fault Refusal :=
  load (checkSSE .sse2) (.definite 8) (e.memRef .m0F)
    (fun t (m : QWord) => t.setXmmKeep e.regNum (m ++ t.lowAt e.regNum)) s

/-- MOVHPD m64, xmm (R168): memory <- the high half. -/
def execMovhpdStore (e : Legacy MemOp) (s : State) : Host.Outcome State Fault Refusal :=
  store (checkSSE .sse2) (.definite 8) (e.memRef .m0F) (fun t => t.highAt e.regNum) id s

/-- VMOVHPD xmm2, xmm1, m64 (R169): high half <- memory, low half <- that of I.v; bits 255:128 zeroed. -/
def execVmovhpdLoad (v : RegNum) (e : Vex MemOp) (s : State) : Host.Outcome State Fault Refusal :=
  load (checkVEX .avx) (.definite 8) e.memRef
    (fun t (m : QWord) => t.setXmmZero e.regNum (m ++ t.lowAt v)) s

/-- VMOVHPD m64, xmm1 (R170): memory <- the high half. -/
def execVmovhpdStore (e : Vex MemOp) (s : State) : Host.Outcome State Fault Refusal :=
  store (checkVEX .avx) (.definite 8) e.memRef (fun t => t.highAt e.regNum) id s

/-- MOVHPS xmm, m64 (R171): high half <- memory, low half <- that of the destination; bits 255:128 kept. -/
def execMovhpsLoad (e : Legacy MemOp) (s : State) : Host.Outcome State Fault Refusal :=
  load (checkSSE .sse) (.definite 8) (e.memRef .m0F)
    (fun t (m : QWord) => t.setXmmKeep e.regNum (m ++ t.lowAt e.regNum)) s

/-- MOVHPS m64, xmm (R172): memory <- the high half. -/
def execMovhpsStore (e : Legacy MemOp) (s : State) : Host.Outcome State Fault Refusal :=
  store (checkSSE .sse) (.definite 8) (e.memRef .m0F) (fun t => t.highAt e.regNum) id s

/-- VMOVHPS xmm2, xmm1, m64 (R173): high half <- memory, low half <- that of I.v; bits 255:128 zeroed. -/
def execVmovhpsLoad (v : RegNum) (e : Vex MemOp) (s : State) : Host.Outcome State Fault Refusal :=
  load (checkVEX .avx) (.definite 8) e.memRef
    (fun t (m : QWord) => t.setXmmZero e.regNum (m ++ t.lowAt v)) s

/-- VMOVHPS m64, xmm1 (R174): memory <- the high half. -/
def execVmovhpsStore (e : Vex MemOp) (s : State) : Host.Outcome State Fault Refusal :=
  store (checkVEX .avx) (.definite 8) e.memRef (fun t => t.highAt e.regNum) id s

/-- MOVLHPS xmm1, xmm2 (R175): high half <- the low half of I.rm, low half <- that of the destination; bits 255:128
kept. -/
def execMovlhps (e : Legacy RegField) (s : State) : Host.Outcome State Fault Refusal :=
  regMove (checkSSE .sse) (e.lenReg .m0F) (fun t => t.setXmmKeep e.regNum (t.lowAt e.rmNum ++ t.lowAt e.regNum)) s

/-- VMOVLHPS xmm1, xmm2, xmm3 (R176): high half <- the low half of I.rm, low half <- that of I.v; bits 255:128
zeroed. -/
def execVmovlhps (v : RegNum) (e : Vex RegField) (s : State) : Host.Outcome State Fault Refusal :=
  regMove (checkVEX .avx) e.lenReg (fun t => t.setXmmZero e.regNum (t.lowAt e.rmNum ++ t.lowAt v)) s

/-- MOVLPD xmm, m64 (R177): low half <- memory, high half <- that of the destination; bits 255:128 kept. -/
def execMovlpdLoad (e : Legacy MemOp) (s : State) : Host.Outcome State Fault Refusal :=
  load (checkSSE .sse2) (.definite 8) (e.memRef .m0F)
    (fun t (m : QWord) => t.setXmmKeep e.regNum (t.highAt e.regNum ++ m)) s

/-- MOVLPD m64, xmm (R178): memory <- the low half. -/
def execMovlpdStore (e : Legacy MemOp) (s : State) : Host.Outcome State Fault Refusal :=
  store (checkSSE .sse2) (.definite 8) (e.memRef .m0F) (fun t => t.lowAt e.regNum) id s

/-- VMOVLPD xmm2, xmm1, m64 (R179): low half <- memory, high half <- that of I.v; bits 255:128 zeroed. -/
def execVmovlpdLoad (v : RegNum) (e : Vex MemOp) (s : State) : Host.Outcome State Fault Refusal :=
  load (checkVEX .avx) (.definite 8) e.memRef
    (fun t (m : QWord) => t.setXmmZero e.regNum (t.highAt v ++ m)) s

/-- VMOVLPD m64, xmm1 (R180): memory <- the low half. -/
def execVmovlpdStore (e : Vex MemOp) (s : State) : Host.Outcome State Fault Refusal :=
  store (checkVEX .avx) (.definite 8) e.memRef (fun t => t.lowAt e.regNum) id s

/-- MOVLPS xmm, m64 (R181): low half <- memory, high half <- that of the destination; bits 255:128 kept. -/
def execMovlpsLoad (e : Legacy MemOp) (s : State) : Host.Outcome State Fault Refusal :=
  load (checkSSE .sse) (.definite 8) (e.memRef .m0F)
    (fun t (m : QWord) => t.setXmmKeep e.regNum (t.highAt e.regNum ++ m)) s

/-- MOVLPS m64, xmm (R182): memory <- the low half. -/
def execMovlpsStore (e : Legacy MemOp) (s : State) : Host.Outcome State Fault Refusal :=
  store (checkSSE .sse) (.definite 8) (e.memRef .m0F) (fun t => t.lowAt e.regNum) id s

/-- VMOVLPS xmm2, xmm1, m64 (R183): low half <- memory, high half <- that of I.v; bits 255:128 zeroed. -/
def execVmovlpsLoad (v : RegNum) (e : Vex MemOp) (s : State) : Host.Outcome State Fault Refusal :=
  load (checkVEX .avx) (.definite 8) e.memRef
    (fun t (m : QWord) => t.setXmmZero e.regNum (t.highAt v ++ m)) s

/-- VMOVLPS m64, xmm1 (R184): memory <- the low half. -/
def execVmovlpsStore (e : Vex MemOp) (s : State) : Host.Outcome State Fault Refusal :=
  store (checkVEX .avx) (.definite 8) e.memRef (fun t => t.lowAt e.regNum) id s

end Sys2Proof.Machine
end

