-- ==== Sys2Proof/Machine/Movddup.lean ====
section
/-! DEFINITION. MOVDDUP and VMOVDDUP (40_movddup.md). -/

namespace Sys2Proof.Machine

/-- Each even quadword of four, twice (R132). -/
def duplicateEven (v : YWord) : YWord :=
  v.extractLsb' 128 64 ++ v.extractLsb' 128 64 ++ v.extractLsb' 0 64 ++ v.extractLsb' 0 64

/-- MOVDDUP xmm1, xmm2/m64 (R130): the low quadword into both halves, the bits above kept. -/
def execMovddup (e : Legacy RM) (s : State) : Host.Outcome State Fault Refusal :=
  moveIn (checkSSE .sse3) (legacyLen .m0F e) (.definite 8) State.lowAt (e.operand .m0F)
    (fun t v => t.setXmmKeep e.regNum (v ++ v)) s

/-- VMOVDDUP xmm1, xmm2/m64 (R131): the low quadword into both halves, the bits above zeroed. -/
def execVmovddupX (e : Vex RM) (s : State) : Host.Outcome State Fault Refusal :=
  moveIn (checkVEX .avx) (vexLen e) (.definite 8) State.lowAt e.operand
    (fun t v => t.setXmmZero e.regNum (v ++ v)) s

/-- VMOVDDUP ymm1, ymm2/m256 (R132): each even quadword twice; #AC is a draw on 32 bytes (R56 (c)). -/
def execVmovddupY (e : Vex RM) (s : State) : Host.Outcome State Fault Refusal :=
  moveIn (checkVEX .avx) (vexLen e) (.draw 32) State.ymmAt e.operand
    (fun t v => t.setYmm e.regNum (duplicateEven v)) s

end Sys2Proof.Machine
end

