-- ==== Sys2Proof/Machine/Movdq.lean ====
section
/-! DEFINITION. MOVDQA, MOVDQU and their VEX forms (41_movdqa_movdqu.md). -/

namespace Sys2Proof.Machine

/-- MOVDQA xmm1, xmm2/m128 (R140): memory aligned on 16 bytes; in a register destination the bits above are kept. -/
def execMovdqaLoad (e : Legacy RM) (s : State) : Host.Outcome State Fault Refusal :=
  moveIn (checkSSE .sse2) (legacyLen .m0F e) (.required 16) State.xmmAt (e.operand .m0F)
    (fun t v => t.setXmmKeep e.regNum v) s

/-- MOVDQA xmm2/m128, xmm1 (R141): memory aligned on 16 bytes; in a register destination the bits above are kept. -/
def execMovdqaStore (e : Legacy RM) (s : State) : Host.Outcome State Fault Refusal :=
  moveOut (checkSSE .sse2) (legacyLen .m0F e) (.required 16) (fun t => t.xmmAt e.regNum) (e.operand .m0F)
    State.setXmmKeep id s

/-- VMOVDQA xmm1, xmm2/m128 (R142): memory aligned on 16 bytes; in a register destination the bits above are zeroed.
-/
def execVmovdqaXLoad (e : Vex RM) (s : State) : Host.Outcome State Fault Refusal :=
  moveIn (checkVEX .avx) (vexLen e) (.required 16) State.xmmAt e.operand
    (fun t v => t.setXmmZero e.regNum v) s

/-- VMOVDQA xmm2/m128, xmm1 (R143): memory aligned on 16 bytes; in a register destination the bits above are zeroed.
-/
def execVmovdqaXStore (e : Vex RM) (s : State) : Host.Outcome State Fault Refusal :=
  moveOut (checkVEX .avx) (vexLen e) (.required 16) (fun t => t.xmmAt e.regNum) e.operand
    State.setXmmZero id s

/-- VMOVDQA ymm1, ymm2/m256 (R144): memory aligned on 32 bytes; all 256 bits. -/
def execVmovdqaYLoad (e : Vex RM) (s : State) : Host.Outcome State Fault Refusal :=
  moveIn (checkVEX .avx) (vexLen e) (.required 32) State.ymmAt e.operand
    (fun t v => t.setYmm e.regNum v) s

/-- VMOVDQA ymm2/m256, ymm1 (R145): memory aligned on 32 bytes; all 256 bits. -/
def execVmovdqaYStore (e : Vex RM) (s : State) : Host.Outcome State Fault Refusal :=
  moveOut (checkVEX .avx) (vexLen e) (.required 32) (fun t => t.ymmAt e.regNum) e.operand
    State.setYmm id s

/-- MOVDQU xmm1, xmm2/m128 (R150): any alignment, #AC a draw on 8 bytes (R56 (a)); in a register destination the
bits above are kept. -/
def execMovdquLoad (e : Legacy RM) (s : State) : Host.Outcome State Fault Refusal :=
  moveIn (checkSSE .sse2) (legacyLen .m0F e) (.draw 8) State.xmmAt (e.operand .m0F)
    (fun t v => t.setXmmKeep e.regNum v) s

/-- MOVDQU xmm2/m128, xmm1 (R151): any alignment, #AC a draw on 8 bytes (R56 (a)); in a register destination the
bits above are kept. -/
def execMovdquStore (e : Legacy RM) (s : State) : Host.Outcome State Fault Refusal :=
  moveOut (checkSSE .sse2) (legacyLen .m0F e) (.draw 8) (fun t => t.xmmAt e.regNum) (e.operand .m0F)
    State.setXmmKeep id s

/-- VMOVDQU xmm1, xmm2/m128 (R152): any alignment, #AC a draw on 8 bytes (R56 (a)); in a register destination the
bits above are zeroed. -/
def execVmovdquXLoad (e : Vex RM) (s : State) : Host.Outcome State Fault Refusal :=
  moveIn (checkVEX .avx) (vexLen e) (.draw 8) State.xmmAt e.operand
    (fun t v => t.setXmmZero e.regNum v) s

/-- VMOVDQU xmm2/m128, xmm1 (R153): any alignment, #AC a draw on 8 bytes (R56 (a)); in a register destination the
bits above are zeroed. -/
def execVmovdquXStore (e : Vex RM) (s : State) : Host.Outcome State Fault Refusal :=
  moveOut (checkVEX .avx) (vexLen e) (.draw 8) (fun t => t.xmmAt e.regNum) e.operand
    State.setXmmZero id s

/-- VMOVDQU ymm1, ymm2/m256 (R154): any alignment, #AC a draw on 8 bytes (R56 (a)); all 256 bits. -/
def execVmovdquYLoad (e : Vex RM) (s : State) : Host.Outcome State Fault Refusal :=
  moveIn (checkVEX .avx) (vexLen e) (.draw 8) State.ymmAt e.operand
    (fun t v => t.setYmm e.regNum v) s

/-- VMOVDQU ymm2/m256, ymm1 (R155): any alignment, #AC a draw on 8 bytes (R56 (a)); all 256 bits. -/
def execVmovdquYStore (e : Vex RM) (s : State) : Host.Outcome State Fault Refusal :=
  moveOut (checkVEX .avx) (vexLen e) (.draw 8) (fun t => t.ymmAt e.regNum) e.operand
    State.setYmm id s

end Sys2Proof.Machine
end

