-- ==== Sys2Proof/Machine/Movdq2q.lean ====
section
/-! DEFINITION. MOVDQ2Q (42_movdq2q.md). -/

namespace Sys2Proof.Machine

/-- MOVDQ2Q mm, xmm (R160): MM <- the low quadword, and the MMX transition (R29). -/
def execMovdq2q (e : Legacy RegField) (s : State) : Host.Outcome State Fault Refusal :=
  regMove checkMOVDQ2Q (e.lenReg .m0F)
    (fun t => (t.setMm e.reg (t.lowAt e.rmNum)).mmxTransition) s

end Sys2Proof.Machine
end

