-- ==== Sys2Proof/Machine/Movmsk.lean ====
section
/-! DEFINITION. MOVMSKPD, MOVMSKPS and their VEX forms (44_movmsk.md). -/

namespace Sys2Proof.Machine

/-- Bit j is the top bit of element j, for the `count` lowest elements of `size` bits; the other bits are 0 (R200 to
R205). -/
def signMask {w : Nat} (size count : Nat) (v : BitVec w) : QWord :=
  match count with
  | 0 => 0
  | k + 1 => signMask size k v ||| ((BitVec.ofBool (v.getLsbD (size * k + (size - 1)))).setWidth 64 <<< k)

/-- MOVMSKPD reg, xmm (R200): the top bits of 2 elements of 64 bits, zero-extended. -/
def execMovmskpd (e : Legacy RegField) (s : State) : Host.Outcome State Fault Refusal :=
  regMove (checkSSE .sse2) (e.lenReg .m0F)
    (fun t => t.setGprByMode e.regNum (signMask 64 2 (t.xmmAt e.rmNum))) s

/-- VMOVMSKPD reg, xmm2 (R201): the top bits of 2 elements of 64 bits, zero-extended. -/
def execVmovmskpdX (e : Vex RegField) (s : State) : Host.Outcome State Fault Refusal :=
  regMove (checkVEX .avx) e.lenReg
    (fun t => t.setGprByMode e.regNum (signMask 64 2 (t.xmmAt e.rmNum))) s

/-- VMOVMSKPD reg, ymm2 (R202): the top bits of 4 elements of 64 bits, zero-extended. -/
def execVmovmskpdY (e : Vex RegField) (s : State) : Host.Outcome State Fault Refusal :=
  regMove (checkVEX .avx) e.lenReg
    (fun t => t.setGprByMode e.regNum (signMask 64 4 (t.ymmAt e.rmNum))) s

/-- MOVMSKPS reg, xmm (R203): the top bits of 4 elements of 32 bits, zero-extended. -/
def execMovmskps (e : Legacy RegField) (s : State) : Host.Outcome State Fault Refusal :=
  regMove (checkSSE .sse) (e.lenReg .m0F)
    (fun t => t.setGprByMode e.regNum (signMask 32 4 (t.xmmAt e.rmNum))) s

/-- VMOVMSKPS reg, xmm2 (R204): the top bits of 4 elements of 32 bits, zero-extended. -/
def execVmovmskpsX (e : Vex RegField) (s : State) : Host.Outcome State Fault Refusal :=
  regMove (checkVEX .avx) e.lenReg
    (fun t => t.setGprByMode e.regNum (signMask 32 4 (t.xmmAt e.rmNum))) s

/-- VMOVMSKPS reg, ymm2 (R205): the top bits of 8 elements of 32 bits, zero-extended. -/
def execVmovmskpsY (e : Vex RegField) (s : State) : Host.Outcome State Fault Refusal :=
  regMove (checkVEX .avx) e.lenReg
    (fun t => t.setGprByMode e.regNum (signMask 32 8 (t.ymmAt e.rmNum))) s

end Sys2Proof.Machine
end

