-- ==== Sys2Proof/Machine/Movnt.lean ====
section
/-! DEFINITION. MOVNTDQA, MOVNTDQ, MOVNTI, MOVNTPD, MOVNTPS, MOVNTQ and their VEX forms (45_movnt.md). -/

namespace Sys2Proof.Machine

/-- MOVNTDQA xmm1, m128 (R210): an aligned load of 16 bytes; the hint has no effect (R68, R70). -/
def execMovntdqa (e : Legacy MemOp) (s : State) : Host.Outcome State Fault Refusal :=
  load (checkSSE .sse41) (.required 16) (e.memRef .m0F38) (fun t v => t.setXmmKeep e.regNum v) s

/-- VMOVNTDQA xmm1, m128 (R211): an aligned load of 16 bytes; the hint has no effect (R68, R70). -/
def execVmovntdqaX (e : Vex MemOp) (s : State) : Host.Outcome State Fault Refusal :=
  load (checkVEX .avx) (.required 16) e.memRef (fun t v => t.setXmmZero e.regNum v) s

/-- VMOVNTDQA ymm1, m256 (R212): an aligned load of 32 bytes; the hint has no effect (R68, R70). -/
def execVmovntdqaY (e : Vex MemOp) (s : State) : Host.Outcome State Fault Refusal :=
  load (checkVEX .avx2) (.required 32) e.memRef (fun t v => t.setYmm e.regNum v) s

/-- MOVNTDQ m128, xmm (R213): an aligned store of 16 bytes; the hint has no effect (R66, R70). -/
def execMovntdq (e : Legacy MemOp) (s : State) : Host.Outcome State Fault Refusal :=
  store (checkSSE .sse2) (.required 16) (e.memRef .m0F) (fun t => t.xmmAt e.regNum) id s

/-- VMOVNTDQ m128, xmm1 (R214): an aligned store of 16 bytes; the hint has no effect (R66, R70). -/
def execVmovntdqX (e : Vex MemOp) (s : State) : Host.Outcome State Fault Refusal :=
  store (checkVEX .avx) (.required 16) e.memRef (fun t => t.xmmAt e.regNum) id s

/-- VMOVNTDQ m256, ymm1 (R215): an aligned store of 32 bytes; the hint has no effect (R66, R70). -/
def execVmovntdqY (e : Vex MemOp) (s : State) : Host.Outcome State Fault Refusal :=
  store (checkVEX .avx) (.required 32) e.memRef (fun t => t.ymmAt e.regNum) id s

/-- MOVNTI m32, r32 (R216): a store of GPR[31:0]. -/
def execMovnti32 (e : Legacy MemOp) (s : State) : Host.Outcome State Fault Refusal :=
  store checkMOVNTI (.definite 4) (e.memRef .m0F) (fun t => (t.gprAt e.regNum).setWidth 32) id s

/-- MOVNTI m64, r64 (R217): a store of GPR[63:0]. -/
def execMovnti64 (e : Legacy MemOp) (s : State) : Host.Outcome State Fault Refusal :=
  store checkMOVNTI (.definite 8) (e.memRef .m0F) (fun t => t.gprAt e.regNum) id s

/-- MOVNTPD m128, xmm (R218): an aligned store of 16 bytes; the hint has no effect (R66, R70). -/
def execMovntpd (e : Legacy MemOp) (s : State) : Host.Outcome State Fault Refusal :=
  store (checkSSE .sse2) (.required 16) (e.memRef .m0F) (fun t => t.xmmAt e.regNum) id s

/-- VMOVNTPD m128, xmm1 (R219): an aligned store of 16 bytes; the hint has no effect (R66, R70). -/
def execVmovntpdX (e : Vex MemOp) (s : State) : Host.Outcome State Fault Refusal :=
  store (checkVEX .avx) (.required 16) e.memRef (fun t => t.xmmAt e.regNum) id s

/-- VMOVNTPD m256, ymm1 (R220): an aligned store of 32 bytes; the hint has no effect (R66, R70). -/
def execVmovntpdY (e : Vex MemOp) (s : State) : Host.Outcome State Fault Refusal :=
  store (checkVEX .avx) (.required 32) e.memRef (fun t => t.ymmAt e.regNum) id s

/-- MOVNTPS m128, xmm (R221): an aligned store of 16 bytes; the hint has no effect (R66, R70). -/
def execMovntps (e : Legacy MemOp) (s : State) : Host.Outcome State Fault Refusal :=
  store (checkSSE .sse) (.required 16) (e.memRef .m0F) (fun t => t.xmmAt e.regNum) id s

/-- VMOVNTPS m128, xmm1 (R222): an aligned store of 16 bytes; the hint has no effect (R66, R70). -/
def execVmovntpsX (e : Vex MemOp) (s : State) : Host.Outcome State Fault Refusal :=
  store (checkVEX .avx) (.required 16) e.memRef (fun t => t.xmmAt e.regNum) id s

/-- VMOVNTPS m256, ymm1 (R223): an aligned store of 32 bytes; the hint has no effect (R66, R70). -/
def execVmovntpsY (e : Vex MemOp) (s : State) : Host.Outcome State Fault Refusal :=
  store (checkVEX .avx) (.required 32) e.memRef (fun t => t.ymmAt e.regNum) id s

/-- MOVNTQ m64, mm (R224): a store of MM, then the MMX transition (R29). -/
def execMovntq (e : Legacy MemOp) (s : State) : Host.Outcome State Fault Refusal :=
  store (checkMMX .sse) (.definite 8) (e.memRef .m0F) (fun t => t.mmAt e.reg) State.mmxTransition s

end Sys2Proof.Machine
end

