-- ==== Sys2Proof/Machine/Movq.lean ====
section
/-! DEFINITION. MOVQ and VMOVQ (46_movq.md). -/

namespace Sys2Proof.Machine

/-- MOVQ mm, mm/m64 (R240): then the MMX transition (R29); MMX numbers have three bits (R107). -/
def execMovqMmLoad (e : Legacy RM) (s : State) : Host.Outcome State Fault Refusal :=
  moveIn (checkMMX .mmx) (legacyLen .m0F e) (.definite 8) (fun t n => t.mmAt (n.setWidth 3)) (e.operand .m0F)
    (fun t v => (t.setMm e.reg v).mmxTransition) s

/-- MOVQ mm/m64, mm (R241): then the MMX transition (R29); MMX numbers have three bits (R107). -/
def execMovqMmStore (e : Legacy RM) (s : State) : Host.Outcome State Fault Refusal :=
  moveOut (checkMMX .mmx) (legacyLen .m0F e) (.definite 8) (fun t => t.mmAt e.reg) (e.operand .m0F)
    (fun t n v => t.setMm (n.setWidth 3) v) State.mmxTransition s

/-- MOVQ xmm1, xmm2/m64 (R242): bits 127:64 zeroed, the bits above kept. -/
def execMovqXmmLoad (e : Legacy RM) (s : State) : Host.Outcome State Fault Refusal :=
  moveIn (checkSSE .sse2) (legacyLen .m0F e) (.definite 8) State.lowAt (e.operand .m0F)
    (fun t v => t.setXmmKeep e.regNum (0#64 ++ v)) s

/-- VMOVQ xmm1, xmm2 (R243): every bit above 63 zeroed. -/
def execVmovqReg (e : Vex RegField) (s : State) : Host.Outcome State Fault Refusal :=
  regMove (checkVEX .avx) e.lenReg (fun t => t.setXmmZero e.regNum (0#64 ++ t.lowAt e.rmNum)) s

/-- VMOVQ xmm1, m64 (R244): every bit above 63 zeroed. -/
def execVmovqLoad (e : Vex MemOp) (s : State) : Host.Outcome State Fault Refusal :=
  load (checkVEX .avx) (.definite 8) e.memRef (fun t (m : QWord) => t.setXmmZero e.regNum (0#64 ++ m)) s

/-- MOVQ xmm2/m64, xmm1 (R245): in a register destination bits 127:64 zeroed, the bits above kept. -/
def execMovqXmmStore (e : Legacy RM) (s : State) : Host.Outcome State Fault Refusal :=
  moveOut (checkSSE .sse2) (legacyLen .m0F e) (.definite 8) (fun t => t.lowAt e.regNum) (e.operand .m0F)
    (fun t n v => t.setXmmKeep n (0#64 ++ v)) id s

/-- VMOVQ xmm1/m64, xmm2 (R246): in a register destination every bit above 63 zeroed. -/
def execVmovqStore (e : Vex RM) (s : State) : Host.Outcome State Fault Refusal :=
  moveOut (checkVEX .avx) (vexLen e) (.definite 8) (fun t => t.lowAt e.regNum) e.operand
    (fun t n v => t.setXmmZero n (0#64 ++ v)) id s

end Sys2Proof.Machine
end

