-- ==== Sys2Proof/Machine/Dispatch.lean ====
section
/-! DEFINITION. One arm per constructor of Instr. -/

namespace Sys2Proof.Machine

def exec (i : Instr) (s : State) : Host.Outcome State Fault Refusal :=
  match i with
  | .movddup e => Sys2Proof.Machine.execMovddup e s
  | .vmovddupX e => Sys2Proof.Machine.execVmovddupX e s
  | .vmovddupY e => Sys2Proof.Machine.execVmovddupY e s
  | .movdqaLoad e => Sys2Proof.Machine.execMovdqaLoad e s
  | .movdqaStore e => Sys2Proof.Machine.execMovdqaStore e s
  | .vmovdqaXLoad e => Sys2Proof.Machine.execVmovdqaXLoad e s
  | .vmovdqaXStore e => Sys2Proof.Machine.execVmovdqaXStore e s
  | .vmovdqaYLoad e => Sys2Proof.Machine.execVmovdqaYLoad e s
  | .vmovdqaYStore e => Sys2Proof.Machine.execVmovdqaYStore e s
  | .movdquLoad e => Sys2Proof.Machine.execMovdquLoad e s
  | .movdquStore e => Sys2Proof.Machine.execMovdquStore e s
  | .vmovdquXLoad e => Sys2Proof.Machine.execVmovdquXLoad e s
  | .vmovdquXStore e => Sys2Proof.Machine.execVmovdquXStore e s
  | .vmovdquYLoad e => Sys2Proof.Machine.execVmovdquYLoad e s
  | .vmovdquYStore e => Sys2Proof.Machine.execVmovdquYStore e s
  | .movdq2q e => Sys2Proof.Machine.execMovdq2q e s
  | .movhlps e => Sys2Proof.Machine.execMovhlps e s
  | .vmovhlps v e => Sys2Proof.Machine.execVmovhlps v e s
  | .movhpdLoad e => Sys2Proof.Machine.execMovhpdLoad e s
  | .movhpdStore e => Sys2Proof.Machine.execMovhpdStore e s
  | .vmovhpdLoad v e => Sys2Proof.Machine.execVmovhpdLoad v e s
  | .vmovhpdStore e => Sys2Proof.Machine.execVmovhpdStore e s
  | .movhpsLoad e => Sys2Proof.Machine.execMovhpsLoad e s
  | .movhpsStore e => Sys2Proof.Machine.execMovhpsStore e s
  | .vmovhpsLoad v e => Sys2Proof.Machine.execVmovhpsLoad v e s
  | .vmovhpsStore e => Sys2Proof.Machine.execVmovhpsStore e s
  | .movlhps e => Sys2Proof.Machine.execMovlhps e s
  | .vmovlhps v e => Sys2Proof.Machine.execVmovlhps v e s
  | .movlpdLoad e => Sys2Proof.Machine.execMovlpdLoad e s
  | .movlpdStore e => Sys2Proof.Machine.execMovlpdStore e s
  | .vmovlpdLoad v e => Sys2Proof.Machine.execVmovlpdLoad v e s
  | .vmovlpdStore e => Sys2Proof.Machine.execVmovlpdStore e s
  | .movlpsLoad e => Sys2Proof.Machine.execMovlpsLoad e s
  | .movlpsStore e => Sys2Proof.Machine.execMovlpsStore e s
  | .vmovlpsLoad v e => Sys2Proof.Machine.execVmovlpsLoad v e s
  | .vmovlpsStore e => Sys2Proof.Machine.execVmovlpsStore e s
  | .movmskpd e => Sys2Proof.Machine.execMovmskpd e s
  | .vmovmskpdX e => Sys2Proof.Machine.execVmovmskpdX e s
  | .vmovmskpdY e => Sys2Proof.Machine.execVmovmskpdY e s
  | .movmskps e => Sys2Proof.Machine.execMovmskps e s
  | .vmovmskpsX e => Sys2Proof.Machine.execVmovmskpsX e s
  | .vmovmskpsY e => Sys2Proof.Machine.execVmovmskpsY e s
  | .movntdqa e => Sys2Proof.Machine.execMovntdqa e s
  | .vmovntdqaX e => Sys2Proof.Machine.execVmovntdqaX e s
  | .vmovntdqaY e => Sys2Proof.Machine.execVmovntdqaY e s
  | .movntdq e => Sys2Proof.Machine.execMovntdq e s
  | .vmovntdqX e => Sys2Proof.Machine.execVmovntdqX e s
  | .vmovntdqY e => Sys2Proof.Machine.execVmovntdqY e s
  | .movnti32 e => Sys2Proof.Machine.execMovnti32 e s
  | .movnti64 e => Sys2Proof.Machine.execMovnti64 e s
  | .movntpd e => Sys2Proof.Machine.execMovntpd e s
  | .vmovntpdX e => Sys2Proof.Machine.execVmovntpdX e s
  | .vmovntpdY e => Sys2Proof.Machine.execVmovntpdY e s
  | .movntps e => Sys2Proof.Machine.execMovntps e s
  | .vmovntpsX e => Sys2Proof.Machine.execVmovntpsX e s
  | .vmovntpsY e => Sys2Proof.Machine.execVmovntpsY e s
  | .movntq e => Sys2Proof.Machine.execMovntq e s
  | .movqMmLoad e => Sys2Proof.Machine.execMovqMmLoad e s
  | .movqMmStore e => Sys2Proof.Machine.execMovqMmStore e s
  | .movqXmmLoad e => Sys2Proof.Machine.execMovqXmmLoad e s
  | .vmovqReg e => Sys2Proof.Machine.execVmovqReg e s
  | .vmovqLoad e => Sys2Proof.Machine.execVmovqLoad e s
  | .movqXmmStore e => Sys2Proof.Machine.execMovqXmmStore e s
  | .vmovqStore e => Sys2Proof.Machine.execVmovqStore e s

end Sys2Proof.Machine
end

