-- ==== Sys2Proof/Machine/Step.lean ====
section
/-! DEFINITION. One step: fetch, decode, check, perform, advance RIP (00_scope.md R14; 70_reset_and_hazards.md
R304), and the placing of an instruction where the next step fetches it. -/

namespace Sys2Proof.Machine

/-- One step. At the end of the run it leaves the state as it is (R304; assumption log 7). -/
def step (s : State) : Host.Outcome State Fault Refusal :=
  match s.contextRefusal with
  | some r => .refused r
  | none =>
    if s.atEnd then .next s
    else
      match decode s.cfg.mode s.fetchBytes with
      | .instr i => exec i s
      | .ud _ => raise .ud s
      | .outOfBytes => raise .gp s
      | .refused r => .refused (decodeRefusal r)

/-- The state with the instruction of opcode_table.json's word `w` loaded as its program: the launch's loading of a
program text (R300; assumption log 16). -/
def State.withFetchWord (s : State) (nbits w : Nat) : State :=
  s.loadInstruction (tableBytes nbits w)

end Sys2Proof.Machine
end

