-- ==== Sys2Proof/Safety.lean ====
section
/-! DEFINITION. The terms claims are stated in: the invariant of the machine, when an instruction is enabled, when a
memory operand is accessible, what an instruction leaves unchanged, and when a run is safe. -/

namespace Sys2Proof.Machine

/-! ### States -/

/-- What every step keeps: memory is in its canonical form and lies in the 64-bit address space (R50), and in
Mode32 the instruction pointer is below 2^32 (R22). -/
def State.Inv (s : State) : Prop :=
  s.mem.wf ∧ (s.cfg.mode = .mode32 → s.rip.toNat < 2 ^ 32)

/-- The ENABLE launch premise (R34). -/
def State.Enabled (s : State) : Prop :=
  s.pe = true ∧ s.em = false ∧ s.ts = false ∧ s.osfxsr = true ∧
    (s.has .avx = true → s.osxsave = true ∧ s.avxState = true)

/-- The model runs instructions: protected mode, not virtual-8086 mode, debug features off (R300, D2, D29). -/
def State.Runs (s : State) : Prop :=
  s.pe = true ∧ s.vm = false ∧ s.tf = false ∧ s.breakpoints = false

/-- A step from this state completes. -/
def State.Safe (s : State) : Prop :=
  ∃ t, step s = .next t

/-! ### Enabled instructions: the conditions of R270 to R274 under which a check procedure lets pass -/

/-- CheckSSE(f) lets pass (R270). -/
def State.SseReady (f : Feature) (s : State) : Prop :=
  s.em = false ∧ s.osfxsr = true ∧ s.has f = true ∧ s.ts = false

/-- CheckVEX(f) lets pass (R271). -/
def State.VexReady (f : Feature) (s : State) : Prop :=
  s.osxsave = true ∧ s.avxState = true ∧ s.has f = true ∧ s.ts = false

/-- CheckMMX(f) lets pass (R272). -/
def State.MmxReady (f : Feature) (s : State) : Prop :=
  s.em = false ∧ s.has f = true ∧ s.ts = false ∧ s.fpend = false

/-- CheckMOVNTI lets pass (R273). -/
def State.MovntiReady (s : State) : Prop :=
  s.has .sse2 = true

/-- CheckMOVDQ2Q lets pass (R274). -/
def State.Movdq2qReady (s : State) : Prop :=
  s.em = false ∧ s.osfxsr = true ∧ s.has .sse2 = true ∧ s.ts = false ∧ s.fpend = false

/-- The five check procedures (R270 to R274). -/
inductive Gate where
  | sse (f : Feature)
  | vex (f : Feature)
  | mmx (f : Feature)
  | movnti
  | movdq2q
deriving DecidableEq, Repr

/-- The procedure itself. -/
def Gate.check (g : Gate) : State → Check Unit :=
  match g with
  | .sse f => checkSSE f
  | .vex f => checkVEX f
  | .mmx f => checkMMX f
  | .movnti => checkMOVNTI
  | .movdq2q => checkMOVDQ2Q

/-- The condition under which it lets pass. -/
def Gate.Ready (g : Gate) (s : State) : Prop :=
  match g with
  | .sse f => s.SseReady f
  | .vex f => s.VexReady f
  | .mmx f => s.MmxReady f
  | .movnti => s.MovntiReady
  | .movdq2q => s.Movdq2qReady

/-- The CPUID flag it asks for. -/
def Gate.feature (g : Gate) : Feature :=
  match g with
  | .sse f => f
  | .vex f => f
  | .mmx f => f
  | .movnti => .sse2
  | .movdq2q => .sse2

/-- The exceptions, by vector, that it can raise (R269, R270 to R274). -/
def Gate.vectors (g : Gate) : List Nat :=
  match g with
  | .sse _ => [6, 7]
  | .vex _ => [6, 7]
  | .mmx _ => [6, 7, 16]
  | .movnti => [6]
  | .movdq2q => [6, 7, 16]

end Sys2Proof.Machine

namespace Sys2Proof

open Sys2Proof.Machine

/-- The check procedure of each row, with the row's CPUID flag (R111, R122, R269 to R274). -/
def Instr.gate (i : Instr) : Gate :=
  match i with
  | .movddup _ => .sse .sse3
  | .vmovddupX _ => .vex .avx
  | .vmovddupY _ => .vex .avx
  | .movdqaLoad _ => .sse .sse2
  | .movdqaStore _ => .sse .sse2
  | .vmovdqaXLoad _ => .vex .avx
  | .vmovdqaXStore _ => .vex .avx
  | .vmovdqaYLoad _ => .vex .avx
  | .vmovdqaYStore _ => .vex .avx
  | .movdquLoad _ => .sse .sse2
  | .movdquStore _ => .sse .sse2
  | .vmovdquXLoad _ => .vex .avx
  | .vmovdquXStore _ => .vex .avx
  | .vmovdquYLoad _ => .vex .avx
  | .vmovdquYStore _ => .vex .avx
  | .movdq2q _ => .movdq2q
  | .movhlps _ => .sse .sse
  | .vmovhlps _ _ => .vex .avx
  | .movhpdLoad _ => .sse .sse2
  | .movhpdStore _ => .sse .sse2
  | .vmovhpdLoad _ _ => .vex .avx
  | .vmovhpdStore _ => .vex .avx
  | .movhpsLoad _ => .sse .sse
  | .movhpsStore _ => .sse .sse
  | .vmovhpsLoad _ _ => .vex .avx
  | .vmovhpsStore _ => .vex .avx
  | .movlhps _ => .sse .sse
  | .vmovlhps _ _ => .vex .avx
  | .movlpdLoad _ => .sse .sse2
  | .movlpdStore _ => .sse .sse2
  | .vmovlpdLoad _ _ => .vex .avx
  | .vmovlpdStore _ => .vex .avx
  | .movlpsLoad _ => .sse .sse
  | .movlpsStore _ => .sse .sse
  | .vmovlpsLoad _ _ => .vex .avx
  | .vmovlpsStore _ => .vex .avx
  | .movmskpd _ => .sse .sse2
  | .vmovmskpdX _ => .vex .avx
  | .vmovmskpdY _ => .vex .avx
  | .movmskps _ => .sse .sse
  | .vmovmskpsX _ => .vex .avx
  | .vmovmskpsY _ => .vex .avx
  | .movntdqa _ => .sse .sse41
  | .vmovntdqaX _ => .vex .avx
  | .vmovntdqaY _ => .vex .avx2
  | .movntdq _ => .sse .sse2
  | .vmovntdqX _ => .vex .avx
  | .vmovntdqY _ => .vex .avx
  | .movnti32 _ => .movnti
  | .movnti64 _ => .movnti
  | .movntpd _ => .sse .sse2
  | .vmovntpdX _ => .vex .avx
  | .vmovntpdY _ => .vex .avx
  | .movntps _ => .sse .sse
  | .vmovntpsX _ => .vex .avx
  | .vmovntpsY _ => .vex .avx
  | .movntq _ => .mmx .sse
  | .movqMmLoad _ => .mmx .mmx
  | .movqMmStore _ => .mmx .mmx
  | .movqXmmLoad _ => .sse .sse2
  | .vmovqReg _ => .vex .avx
  | .vmovqLoad _ => .vex .avx
  | .movqXmmStore _ => .sse .sse2
  | .vmovqStore _ => .vex .avx

/-- The memory access of an instruction: its kind, its bytes, what it asks of alignment, its operand. -/
structure MemAccess where
  kind : AccessKind
  size : Nat
  align : AlignRule
  ref : MemRef
deriving DecidableEq, Repr

/-- The access of an r/m operand, if it is memory. -/
def Operand.access (o : Operand) (kind : AccessKind) (size : Nat) (align : AlignRule) : Option MemAccess :=
  match o with
  | .reg _ => none
  | .mem r => some { kind := kind, size := size, align := align, ref := r }

/-- The memory access of each row (R53 for kind and size, R54 to R56 for alignment). -/
def Instr.access (i : Instr) : Option MemAccess :=
  match i with
  | .movddup e => (e.operand .m0F).access .read 8 (.definite 8)
  | .vmovddupX e => e.operand.access .read 8 (.definite 8)
  | .vmovddupY e => e.operand.access .read 32 (.draw 32)
  | .movdqaLoad e => (e.operand .m0F).access .read 16 (.required 16)
  | .movdqaStore e => (e.operand .m0F).access .write 16 (.required 16)
  | .vmovdqaXLoad e => e.operand.access .read 16 (.required 16)
  | .vmovdqaXStore e => e.operand.access .write 16 (.required 16)
  | .vmovdqaYLoad e => e.operand.access .read 32 (.required 32)
  | .vmovdqaYStore e => e.operand.access .write 32 (.required 32)
  | .movdquLoad e => (e.operand .m0F).access .read 16 (.draw 8)
  | .movdquStore e => (e.operand .m0F).access .write 16 (.draw 8)
  | .vmovdquXLoad e => e.operand.access .read 16 (.draw 8)
  | .vmovdquXStore e => e.operand.access .write 16 (.draw 8)
  | .vmovdquYLoad e => e.operand.access .read 32 (.draw 8)
  | .vmovdquYStore e => e.operand.access .write 32 (.draw 8)
  | .movdq2q _ => none
  | .movhlps _ => none
  | .vmovhlps _ _ => none
  | .movhpdLoad e => some { kind := .read, size := 8, align := .definite 8, ref := e.memRef .m0F }
  | .movhpdStore e => some { kind := .write, size := 8, align := .definite 8, ref := e.memRef .m0F }
  | .vmovhpdLoad _ e => some { kind := .read, size := 8, align := .definite 8, ref := e.memRef }
  | .vmovhpdStore e => some { kind := .write, size := 8, align := .definite 8, ref := e.memRef }
  | .movhpsLoad e => some { kind := .read, size := 8, align := .definite 8, ref := e.memRef .m0F }
  | .movhpsStore e => some { kind := .write, size := 8, align := .definite 8, ref := e.memRef .m0F }
  | .vmovhpsLoad _ e => some { kind := .read, size := 8, align := .definite 8, ref := e.memRef }
  | .vmovhpsStore e => some { kind := .write, size := 8, align := .definite 8, ref := e.memRef }
  | .movlhps _ => none
  | .vmovlhps _ _ => none
  | .movlpdLoad e => some { kind := .read, size := 8, align := .definite 8, ref := e.memRef .m0F }
  | .movlpdStore e => some { kind := .write, size := 8, align := .definite 8, ref := e.memRef .m0F }
  | .vmovlpdLoad _ e => some { kind := .read, size := 8, align := .definite 8, ref := e.memRef }
  | .vmovlpdStore e => some { kind := .write, size := 8, align := .definite 8, ref := e.memRef }
  | .movlpsLoad e => some { kind := .read, size := 8, align := .definite 8, ref := e.memRef .m0F }
  | .movlpsStore e => some { kind := .write, size := 8, align := .definite 8, ref := e.memRef .m0F }
  | .vmovlpsLoad _ e => some { kind := .read, size := 8, align := .definite 8, ref := e.memRef }
  | .vmovlpsStore e => some { kind := .write, size := 8, align := .definite 8, ref := e.memRef }
  | .movmskpd _ => none
  | .vmovmskpdX _ => none
  | .vmovmskpdY _ => none
  | .movmskps _ => none
  | .vmovmskpsX _ => none
  | .vmovmskpsY _ => none
  | .movntdqa e => some { kind := .read, size := 16, align := .required 16, ref := e.memRef .m0F38 }
  | .vmovntdqaX e => some { kind := .read, size := 16, align := .required 16, ref := e.memRef }
  | .vmovntdqaY e => some { kind := .read, size := 32, align := .required 32, ref := e.memRef }
  | .movntdq e => some { kind := .write, size := 16, align := .required 16, ref := e.memRef .m0F }
  | .vmovntdqX e => some { kind := .write, size := 16, align := .required 16, ref := e.memRef }
  | .vmovntdqY e => some { kind := .write, size := 32, align := .required 32, ref := e.memRef }
  | .movnti32 e => some { kind := .write, size := 4, align := .definite 4, ref := e.memRef .m0F }
  | .movnti64 e => some { kind := .write, size := 8, align := .definite 8, ref := e.memRef .m0F }
  | .movntpd e => some { kind := .write, size := 16, align := .required 16, ref := e.memRef .m0F }
  | .vmovntpdX e => some { kind := .write, size := 16, align := .required 16, ref := e.memRef }
  | .vmovntpdY e => some { kind := .write, size := 32, align := .required 32, ref := e.memRef }
  | .movntps e => some { kind := .write, size := 16, align := .required 16, ref := e.memRef .m0F }
  | .vmovntpsX e => some { kind := .write, size := 16, align := .required 16, ref := e.memRef }
  | .vmovntpsY e => some { kind := .write, size := 32, align := .required 32, ref := e.memRef }
  | .movntq e => some { kind := .write, size := 8, align := .definite 8, ref := e.memRef .m0F }
  | .movqMmLoad e => (e.operand .m0F).access .read 8 (.definite 8)
  | .movqMmStore e => (e.operand .m0F).access .write 8 (.definite 8)
  | .movqXmmLoad e => (e.operand .m0F).access .read 8 (.definite 8)
  | .vmovqReg _ => none
  | .vmovqLoad e => some { kind := .read, size := 8, align := .definite 8, ref := e.memRef }
  | .movqXmmStore e => (e.operand .m0F).access .write 8 (.definite 8)
  | .vmovqStore e => e.operand.access .write 8 (.definite 8)

/-- What an instruction writes besides RIP, TOP and FTW: one register, or its memory operand (R43, R99). -/
inductive Dest where
  | vector (n : RegNum)
  | gpr (n : RegNum)
  | mmx (n : MmxNum)
  | memory
deriving DecidableEq, Repr

/-- An r/m operand as the destination of a vector move. -/
def Operand.destVector (o : Operand) : Dest :=
  match o with
  | .reg n => .vector n
  | .mem _ => .memory

/-- An r/m operand as the destination of MOVQ mm/m64, mm; MMX numbers have three bits (R107). -/
def Operand.destMmx (o : Operand) : Dest :=
  match o with
  | .reg n => .mmx (n.setWidth 3)
  | .mem _ => .memory

/-- The destination of each row: operand 1 of R111, found by the Op/En of R99. -/
def Instr.dest (i : Instr) : Dest :=
  match i with
  | .movddup e => .vector e.regNum
  | .vmovddupX e => .vector e.regNum
  | .vmovddupY e => .vector e.regNum
  | .movdqaLoad e => .vector e.regNum
  | .movdqaStore e => (e.operand .m0F).destVector
  | .vmovdqaXLoad e => .vector e.regNum
  | .vmovdqaXStore e => e.operand.destVector
  | .vmovdqaYLoad e => .vector e.regNum
  | .vmovdqaYStore e => e.operand.destVector
  | .movdquLoad e => .vector e.regNum
  | .movdquStore e => (e.operand .m0F).destVector
  | .vmovdquXLoad e => .vector e.regNum
  | .vmovdquXStore e => e.operand.destVector
  | .vmovdquYLoad e => .vector e.regNum
  | .vmovdquYStore e => e.operand.destVector
  | .movdq2q e => .mmx e.reg
  | .movhlps e => .vector e.regNum
  | .vmovhlps _ e => .vector e.regNum
  | .movhpdLoad e => .vector e.regNum
  | .movhpdStore _ => .memory
  | .vmovhpdLoad _ e => .vector e.regNum
  | .vmovhpdStore _ => .memory
  | .movhpsLoad e => .vector e.regNum
  | .movhpsStore _ => .memory
  | .vmovhpsLoad _ e => .vector e.regNum
  | .vmovhpsStore _ => .memory
  | .movlhps e => .vector e.regNum
  | .vmovlhps _ e => .vector e.regNum
  | .movlpdLoad e => .vector e.regNum
  | .movlpdStore _ => .memory
  | .vmovlpdLoad _ e => .vector e.regNum
  | .vmovlpdStore _ => .memory
  | .movlpsLoad e => .vector e.regNum
  | .movlpsStore _ => .memory
  | .vmovlpsLoad _ e => .vector e.regNum
  | .vmovlpsStore _ => .memory
  | .movmskpd e => .gpr e.regNum
  | .vmovmskpdX e => .gpr e.regNum
  | .vmovmskpdY e => .gpr e.regNum
  | .movmskps e => .gpr e.regNum
  | .vmovmskpsX e => .gpr e.regNum
  | .vmovmskpsY e => .gpr e.regNum
  | .movntdqa e => .vector e.regNum
  | .vmovntdqaX e => .vector e.regNum
  | .vmovntdqaY e => .vector e.regNum
  | .movntdq _ => .memory
  | .vmovntdqX _ => .memory
  | .vmovntdqY _ => .memory
  | .movnti32 _ => .memory
  | .movnti64 _ => .memory
  | .movntpd _ => .memory
  | .vmovntpdX _ => .memory
  | .vmovntpdY _ => .memory
  | .movntps _ => .memory
  | .vmovntpsX _ => .memory
  | .vmovntpsY _ => .memory
  | .movntq _ => .memory
  | .movqMmLoad e => .mmx e.reg
  | .movqMmStore e => (e.operand .m0F).destMmx
  | .movqXmmLoad e => .vector e.regNum
  | .vmovqReg e => .vector e.regNum
  | .vmovqLoad e => .vector e.regNum
  | .movqXmmStore e => (e.operand .m0F).destVector
  | .vmovqStore e => e.operand.destVector

/-- The vector registers among an r/m source operand. -/
def Operand.vectorSources (o : Operand) : List RegNum :=
  match o with
  | .reg n => [n]
  | .mem _ => []

/-- The vector registers that are source operands of each row: operands 2 and 3 of R111 (R99). -/
def Instr.vectorSources (i : Instr) : List RegNum :=
  match i with
  | .movddup e => (e.operand .m0F).vectorSources
  | .vmovddupX e => e.operand.vectorSources
  | .vmovddupY e => e.operand.vectorSources
  | .movdqaLoad e => (e.operand .m0F).vectorSources
  | .movdqaStore e => [e.regNum]
  | .vmovdqaXLoad e => e.operand.vectorSources
  | .vmovdqaXStore e => [e.regNum]
  | .vmovdqaYLoad e => e.operand.vectorSources
  | .vmovdqaYStore e => [e.regNum]
  | .movdquLoad e => (e.operand .m0F).vectorSources
  | .movdquStore e => [e.regNum]
  | .vmovdquXLoad e => e.operand.vectorSources
  | .vmovdquXStore e => [e.regNum]
  | .vmovdquYLoad e => e.operand.vectorSources
  | .vmovdquYStore e => [e.regNum]
  | .movdq2q e => [e.rmNum]
  | .movhlps e => [e.rmNum]
  | .vmovhlps v e => [v, e.rmNum]
  | .movhpdLoad _ => []
  | .movhpdStore e => [e.regNum]
  | .vmovhpdLoad v _ => [v]
  | .vmovhpdStore e => [e.regNum]
  | .movhpsLoad _ => []
  | .movhpsStore e => [e.regNum]
  | .vmovhpsLoad v _ => [v]
  | .vmovhpsStore e => [e.regNum]
  | .movlhps e => [e.rmNum]
  | .vmovlhps v e => [v, e.rmNum]
  | .movlpdLoad _ => []
  | .movlpdStore e => [e.regNum]
  | .vmovlpdLoad v _ => [v]
  | .vmovlpdStore e => [e.regNum]
  | .movlpsLoad _ => []
  | .movlpsStore e => [e.regNum]
  | .vmovlpsLoad v _ => [v]
  | .vmovlpsStore e => [e.regNum]
  | .movmskpd e => [e.rmNum]
  | .vmovmskpdX e => [e.rmNum]
  | .vmovmskpdY e => [e.rmNum]
  | .movmskps e => [e.rmNum]
  | .vmovmskpsX e => [e.rmNum]
  | .vmovmskpsY e => [e.rmNum]
  | .movntdqa _ => []
  | .vmovntdqaX _ => []
  | .vmovntdqaY _ => []
  | .movntdq e => [e.regNum]
  | .vmovntdqX e => [e.regNum]
  | .vmovntdqY e => [e.regNum]
  | .movnti32 _ => []
  | .movnti64 _ => []
  | .movntpd e => [e.regNum]
  | .vmovntpdX e => [e.regNum]
  | .vmovntpdY e => [e.regNum]
  | .movntps e => [e.regNum]
  | .vmovntpsX e => [e.regNum]
  | .vmovntpsY e => [e.regNum]
  | .movntq _ => []
  | .movqMmLoad _ => []
  | .movqMmStore _ => []
  | .movqXmmLoad e => (e.operand .m0F).vectorSources
  | .vmovqReg e => [e.rmNum]
  | .vmovqLoad _ => []
  | .movqXmmStore e => [e.regNum]
  | .vmovqStore e => [e.regNum]

/-- VEX.L of each row: whether it is a 256-bit form (R96, R111). -/
def Instr.is256 (i : Instr) : Bool :=
  match i with
  | .vmovddupY _ | .vmovdqaYLoad _ | .vmovdqaYStore _ | .vmovdquYLoad _ | .vmovdquYStore _ | .vmovmskpdY _
  | .vmovmskpsY _ | .vmovntdqaY _ | .vmovntdqY _ | .vmovntpdY _ | .vmovntpsY _ => true
  | .movddup _ | .vmovddupX _ | .movdqaLoad _ | .movdqaStore _ | .vmovdqaXLoad _ | .vmovdqaXStore _
  | .movdquLoad _ | .movdquStore _ | .vmovdquXLoad _ | .vmovdquXStore _ | .movdq2q _ | .movhlps _
  | .vmovhlps _ _ | .movhpdLoad _ | .movhpdStore _ | .vmovhpdLoad _ _ | .vmovhpdStore _ | .movhpsLoad _
  | .movhpsStore _ | .vmovhpsLoad _ _ | .vmovhpsStore _ | .movlhps _ | .vmovlhps _ _ | .movlpdLoad _
  | .movlpdStore _ | .vmovlpdLoad _ _ | .vmovlpdStore _ | .movlpsLoad _ | .movlpsStore _ | .vmovlpsLoad _ _
  | .vmovlpsStore _ | .movmskpd _ | .vmovmskpdX _ | .movmskps _ | .vmovmskpsX _ | .movntdqa _ | .vmovntdqaX _
  | .movntdq _ | .vmovntdqX _ | .movnti32 _ | .movnti64 _ | .movntpd _ | .vmovntpdX _ | .movntps _
  | .vmovntpsX _ | .movntq _ | .movqMmLoad _ | .movqMmStore _ | .movqXmmLoad _ | .vmovqReg _ | .vmovqLoad _
  | .movqXmmStore _ | .vmovqStore _ => false

end Sys2Proof

namespace Sys2Proof.Machine

/-! ### Accessible memory operands -/

/-- The address meets the alignment rule: a multiple of `n` where R54 requires it, and where alignment checking is
on in the other cases, so that neither #GP nor #AC arises and nothing is drawn (R54 to R56). -/
def AlignRule.Met (al : AlignRule) (s : State) (la : QWord) : Prop :=
  match al with
  | .required n => la.toNat % n = 0
  | .definite n => s.alignCheck = true → la.toNat % n = 0
  | .draw n => s.alignCheck = true → la.toNat % n = 0

/-- The oracle Access answers "ok" for every byte address, the bytes being at these locations (R61). -/
def State.Located (s : State) (kind : AccessKind) (as : List QWord) (locs : List Nat) : Prop :=
  List.Forall₂ (fun a loc => ∃ phys, s.accessByte kind a = .ok phys ∧ phys.toNat = loc) as locs

/-- An `n`-byte access to the memory operand passes every check of R57 and R58, its bytes being at `locs`. -/
def State.Accessible (s : State) (kind : AccessKind) (al : AlignRule) (n : Nat) (r : MemRef) (locs : List Nat) :
    Prop :=
  s.passesSegmentEnd r n = false ∧ s.addressForm kind r n = true ∧ al.Met s (s.linear r) ∧
    s.Located kind (byteAddrs s.cfg.mode (s.linear r) n) locs ∧
      (kind = .write → s.overlapsText (byteAddrs s.cfg.mode (s.linear r) n) locs = false)

/-! ### What is left unchanged -/

/-- The system state, which no instruction changes: flags, control registers, CPL, FPEND, debug state, the program
text's extent, the configuration (R23, R30 to R38, R42). -/
def SameSystem (s t : State) : Prop :=
  t.rflags = s.rflags ∧ t.cr0 = s.cr0 ∧ t.cr4 = s.cr4 ∧ t.xcr0 = s.xcr0 ∧ t.cpl = s.cpl ∧ t.fpend = s.fpend ∧
    t.breakpoints = s.breakpoints ∧ t.program = s.program ∧ t.cfg = s.cfg

/-- Every byte of memory reads the same. -/
def SameMemory (s t : State) : Prop :=
  ∀ a, t.mem.read a = s.mem.read a

/-- At most the vector register `d` and RIP differ. -/
def OnlyVector (d : RegNum) (s t : State) : Prop :=
  (∀ n, n ≠ d → t.ymmAt n = s.ymmAt n) ∧ t.gpr = s.gpr ∧ t.x87 = s.x87 ∧ t.top = s.top ∧ t.ftw = s.ftw ∧
    t.draws = s.draws ∧ SameSystem s t ∧ SameMemory s t

/-- At most the general-purpose register `d` and RIP differ. -/
def OnlyGpr (d : RegNum) (s t : State) : Prop :=
  (∀ n, n ≠ d → t.gprAt n = s.gprAt n) ∧ t.ymm = s.ymm ∧ t.x87 = s.x87 ∧ t.top = s.top ∧ t.ftw = s.ftw ∧
    t.draws = s.draws ∧ SameSystem s t ∧ SameMemory s t

/-- At most the x87 data register of MM[d], TOP, FTW and RIP differ. -/
def OnlyMmx (d : MmxNum) (s t : State) : Prop :=
  (∀ n, n ≠ d → t.x87.get n.toFin = s.x87.get n.toFin) ∧ t.ymm = s.ymm ∧ t.gpr = s.gpr ∧ t.draws = s.draws ∧
    SameSystem s t ∧ SameMemory s t

/-- At most the bytes at `locs`, TOP, FTW and RIP differ. -/
def OnlyStored (locs : List Nat) (s t : State) : Prop :=
  (∀ a, a ∉ locs → t.mem.read a = s.mem.read a) ∧ t.ymm = s.ymm ∧ t.gpr = s.gpr ∧ t.x87 = s.x87 ∧
    t.draws = s.draws ∧ SameSystem s t

/-- TOP and FTW are the same. -/
def SameTags (s t : State) : Prop :=
  t.top = s.top ∧ t.ftw = s.ftw

/-- TOP and FTW are as MMXTransition leaves them (R29). -/
def MmxTags (_ t : State) : Prop :=
  t.top = 0 ∧ t.ftw = 0

/-! ### What an instruction does, from conditions on the state and the operands alone -/

/-- Where its check procedure lets pass, `i` answers a next state in which the vector register `d` holds `result`, RIP
is past the instruction, and nothing else differs. -/
def MovesVector (i : Instr) (d : RegNum) (result : State → YWord) : Prop :=
  ∀ s, i.gate.Ready s →
    ∃ t, exec i s = .next t ∧ t.ymmAt d = result s ∧ t.rip = s.nextRip (encode i).length ∧ OnlyVector d s t

/-- Where its check procedure lets pass and the `w`-bit memory operand `r` is accessible, `i` answers a next state in
which the vector register `d` holds `result` of the operand, RIP is past the instruction, and nothing else
differs. -/
def LoadsVector {w : Nat} (i : Instr) (al : AlignRule) (r : MemRef) (d : RegNum)
    (result : State → BitVec w → YWord) : Prop :=
  ∀ s locs, i.gate.Ready s → s.Accessible .read al (w / 8) r locs →
    ∃ t, exec i s = .next t ∧ t.ymmAt d = result s (leValue w (s.mem.readAll locs)) ∧
      t.rip = s.nextRip (encode i).length ∧ OnlyVector d s t

/-- Where its check procedure lets pass and the `w`-bit memory operand `r` is accessible, `i` answers a next state in
which the bytes of `r` hold `v`, least significant first (where no two of them are one location), RIP is past the
instruction, TOP and FTW are as `tags` says, and nothing else differs. -/
def StoresTo {w : Nat} (i : Instr) (al : AlignRule) (r : MemRef) (v : State → BitVec w)
    (tags : State → State → Prop) : Prop :=
  ∀ s locs, i.gate.Ready s → s.mem.wf → s.Accessible .write al (w / 8) r locs →
    ∃ t, exec i s = .next t ∧ (locs.Nodup → t.mem.readAll locs = leBytes (w / 8) (v s)) ∧
      t.rip = s.nextRip (encode i).length ∧ tags s t ∧ OnlyStored locs s t

/-- `t` differs from `s` in that MM[d] holds `v`, with ones above it in the x87 register (R27), TOP and FTW are 0, and
RIP is past the instruction `i`. -/
def MmxWritten (i : Instr) (d : MmxNum) (v : QWord) (s t : State) : Prop :=
  t.mmAt d = v ∧ (t.x87.get d.toFin).extractLsb' 64 16 = 0xFFFF#16 ∧ MmxTags s t ∧
    t.rip = s.nextRip (encode i).length ∧ OnlyMmx d s t

/-- Where its check procedure lets pass, `i` answers a next state in which MM[d] holds `result` and the MMX transition
is made. -/
def MovesMmx (i : Instr) (d : MmxNum) (result : State → QWord) : Prop :=
  ∀ s, i.gate.Ready s → ∃ t, exec i s = .next t ∧ MmxWritten i d (result s) s t

/-- Where its check procedure lets pass, `i` answers a next state in which bit j of the general-purpose register `d`
(of its 64 bits in Mode64, of bits 31:0 in Mode32) is the top bit of element j of `src` for the `count` lowest
elements of `size` bits, and 0 above them, RIP is past the instruction, and nothing else differs. -/
def MasksSigns (i : Instr) (d : RegNum) (size count : Nat) (src : State → YWord) : Prop :=
  ∀ s, i.gate.Ready s →
    ∃ t, exec i s = .next t ∧
      (∀ j, j < (match s.cfg.mode with | .mode64 => 64 | .mode32 => 32) →
        (t.gprAt d).getLsbD j = (decide (j < count) && (src s).getLsbD (size * j + (size - 1)))) ∧
      t.rip = s.nextRip (encode i).length ∧ OnlyGpr d s t

/-- The high half of a vector register, bits 255:128. -/
def State.upperAt (s : State) (n : RegNum) : DQWord :=
  (s.ymmAt n).extractLsb' 128 128

/-- The outcome with its next state, if it has one, changed. -/
def mapNext (f : State → State) (o : Host.Outcome State Fault Refusal) : Host.Outcome State Fault Refusal :=
  match o with
  | .next t => .next (f t)
  | .fault e => .fault e
  | .refused r => .refused r

/-- RIP as a fault records it (R281). -/
def Fault.rip (f : Fault) : QWord :=
  match f with
  | .ud a => a
  | .nm a => a
  | .ss _ a => a
  | .gp _ a => a
  | .pf _ a _ => a
  | .mf a => a
  | .ac _ a => a

/-- In mode `m`, a step at these bytes is #UD (R261), in every state in which the model runs. -/
def StepRaisesUd (m : Mode) (bs : List Byte) : Prop :=
  ∀ (s : State) (rest : List Byte), s.Runs → s.atEnd = false → s.cfg.mode = m → s.fetchBytes = bs ++ rest →
    step s = .fault (.ud s.rip)

/-- The check procedure of `i` is `g`, and nothing else stops it: it completes where `g` lets pass, and elsewhere its
outcome is the #UD or #NM of `g`. -/
def StopsOnlyAtGate (i : Instr) (g : Gate) : Prop :=
  i.gate = g ∧ ∀ s,
    (g.Ready s ∧ ∃ t, exec i s = .next t) ∨
      ∃ e, (e = .ud ∨ e = .nm) ∧ g.check s = .raise e ∧ exec i s = .fault (exnFault e s.rip)

/-- Prefix, map and opcode of the legacy rows of R111. -/
def legacyOpcodes : List (SimdPrefix × OpMap × Byte) :=
  [(.pF2, .m0F, 0x12), (.p66, .m0F, 0x6F), (.p66, .m0F, 0x7F), (.pF3, .m0F, 0x6F), (.pF3, .m0F, 0x7F),
   (.pF2, .m0F, 0xD6), (.none, .m0F, 0x12), (.p66, .m0F, 0x16), (.p66, .m0F, 0x17), (.none, .m0F, 0x16),
   (.none, .m0F, 0x17), (.p66, .m0F, 0x12), (.p66, .m0F, 0x13), (.none, .m0F, 0x13), (.p66, .m0F, 0x50),
   (.none, .m0F, 0x50), (.p66, .m0F38, 0x2A), (.p66, .m0F, 0xE7), (.none, .m0F, 0xC3), (.p66, .m0F, 0x2B),
   (.none, .m0F, 0x2B), (.none, .m0F, 0xE7), (.none, .m0F, 0x6F), (.none, .m0F, 0x7F), (.pF3, .m0F, 0x7E),
   (.p66, .m0F, 0xD6)]

/-- Prefix, map and opcode of the VEX rows of R111. -/
def vexOpcodes : List (SimdPrefix × OpMap × Byte) :=
  [(.pF2, .m0F, 0x12), (.p66, .m0F, 0x6F), (.p66, .m0F, 0x7F), (.pF3, .m0F, 0x6F), (.pF3, .m0F, 0x7F),
   (.none, .m0F, 0x12), (.p66, .m0F, 0x16), (.p66, .m0F, 0x17), (.none, .m0F, 0x16), (.none, .m0F, 0x17),
   (.p66, .m0F, 0x12), (.p66, .m0F, 0x13), (.none, .m0F, 0x13), (.p66, .m0F, 0x50), (.none, .m0F, 0x50),
   (.p66, .m0F38, 0x2A), (.p66, .m0F, 0xE7), (.p66, .m0F, 0x2B), (.none, .m0F, 0x2B), (.pF3, .m0F, 0x7E),
   (.p66, .m0F, 0xD6)]

/-- The same state with RFLAGS.AC = 0, so that alignment checking is off (R56). -/
def State.withoutAc (s : State) : State :=
  { s with rflags := s.rflags &&& ~~~(1#64 <<< 18) }

end Sys2Proof.Machine
end

