-- ==== Sys2Proof/Certificates/Slice0/Obligations.lean ====
section
/-! DEFINITION. The statements for the provers. -/

open Sys2Proof Sys2Proof.Machine

/-- O1. In either mode, for each of the 64 instructions with every operand at every value its encoding admits
(prefixes in any order, REX or VEX bits, register numbers, every addressing form, every displacement), the decoder
reads from the encoder's bytes, followed by any bytes, that instruction. -/
def Obligations.DecodeOfEncode : Prop :=
  ∀ (m : Mode) (i : Instr) (rest : List Byte), i.wf m = true → decode m (encode i ++ rest) = .instr i

/-- O2. In either mode, if the decoder reads an instruction from some bytes, that instruction is well formed in the
mode (so it has an accepted prefix set and a row of the table) and the bytes are its encoding followed by others: no
bit of an accepted encoding is dropped, and no bytes outside the table are accepted. -/
def Obligations.EncodeOfDecode : Prop :=
  ∀ (m : Mode) (bs : List Byte) (i : Instr), decode m bs = .instr i →
    i.wf m = true ∧ ∃ rest, bs = encode i ++ rest

/-- O3. In either mode a well-formed instruction's encoding is between 3 and 13 bytes long, so that the limit of 15
is never reached by one; some well-formed instruction has 13. -/
def Obligations.LongestInstruction : Prop :=
  (∀ (m : Mode) (i : Instr), i.wf m = true → 3 ≤ (encode i).length ∧ (encode i).length ≤ 13) ∧
    ∃ i : Instr, i.wf .mode64 = true ∧ (encode i).length = 13

/-- O4. Whatever the 24-bit key, at most one of the 64 rows of the table matches it, legacy and VEX rows together.
-/
def Obligations.RowsAreDisjoint : Prop :=
  ∀ key : BitVec 24,
    (legacyRows.filter fun row => key &&& row.mask == row.pattern).length +
      (vexRows.filter fun row => key &&& row.mask == row.pattern).length ≤ 1

/-- O5. For each VEX row whose vvvv must be 1111b, with either VEX form and either kind of r/m operand, a step at an
encoding whose vvvv is not 1111b (naming register v, not 0; in Mode32 at most 7, D9 refusing the others) is #UD. -/
def Obligations.ReservedVvvvRaisesUd : Prop :=
  ∀ x ∈ ([(.pF2, .m0F, false, 0x12), (.pF2, .m0F, true, 0x12), (.p66, .m0F, false, 0x6F), (.p66, .m0F, false, 0x7F),
         (.p66, .m0F, true, 0x6F), (.p66, .m0F, true, 0x7F), (.pF3, .m0F, false, 0x6F), (.pF3, .m0F, false, 0x7F),
         (.pF3, .m0F, true, 0x6F), (.pF3, .m0F, true, 0x7F), (.p66, .m0F, false, 0x17), (.none, .m0F, false, 0x17),
         (.p66, .m0F, false, 0x13), (.none, .m0F, false, 0x13), (.p66, .m0F, false, 0x50), (.p66, .m0F, true, 0x50),
         (.none, .m0F, false, 0x50), (.none, .m0F, true, 0x50), (.p66, .m0F38, false, 0x2A), (.p66, .m0F38, true, 0x2A),
         (.p66, .m0F, false, 0xE7), (.p66, .m0F, true, 0xE7), (.p66, .m0F, false, 0x2B), (.p66, .m0F, true, 0x2B),
         (.none, .m0F, false, 0x2B), (.none, .m0F, true, 0x2B), (.pF3, .m0F, false, 0x7E), (.p66, .m0F, false, 0xD6)] :
      List (SimdPrefix × OpMap × Bool × Byte)),
    ∀ (m : Mode) (v : RegNum) (e : Vex RM), wfVex m x.2.1 v e = true → v ≠ 0 →
      StepRaisesUd m (vexBytes x.1 x.2.1 x.2.2.1 v x.2.2.2 e)

/-- O6. For the opcodes of VMOVHLPS, VMOVLHPS, VMOVHPD, VMOVHPS, VMOVLPD, VMOVLPS and both VMOVQ opcodes, whatever
vvvv and the operands, a step at an encoding with VEX.L = 1 is #UD. -/
def Obligations.ReservedLRaisesUd : Prop :=
  ∀ x ∈ ([(.none, 0x12), (.p66, 0x12), (.none, 0x16), (.p66, 0x16), (.none, 0x13), (.p66, 0x13), (.none, 0x17),
        (.p66, 0x17), (.pF3, 0x7E), (.p66, 0xD6)] : List (SimdPrefix × Byte)),
    ∀ (m : Mode) (v : RegNum) (e : Vex RM), wfVex m .m0F v e = true →
      StepRaisesUd m (vexBytes x.1 .m0F true v x.2 e)

/-- O7. For every opcode of rows 19 to 22, 24, 26, 29 to 32, 34, 36 and 43 to 57 a step at the register form (mod =
11b), and for every opcode of rows 16 and 37 to 42 a step at the memory form, is #UD, in the legacy and the VEX
format, whatever the operands. -/
def Obligations.ReservedModRaisesUd : Prop :=
  (∀ x ∈ ([(.p66, .m0F, 0x16), (.p66, .m0F, 0x17), (.none, .m0F, 0x17), (.p66, .m0F, 0x12),
           (.p66, .m0F, 0x13), (.none, .m0F, 0x13), (.p66, .m0F38, 0x2A), (.p66, .m0F, 0xE7),
           (.none, .m0F, 0xC3), (.p66, .m0F, 0x2B), (.none, .m0F, 0x2B), (.none, .m0F, 0xE7)] :
        List (SimdPrefix × OpMap × Byte)),
      ∀ (m : Mode) (e : Legacy RegField), wfLegacy m x.1 (e.map RM.reg) = true →
        StepRaisesUd m (legacyBytes x.2.1 x.2.2 (e.map RM.reg))) ∧
  (∀ x ∈ ([(.p66, .m0F, false, 0x16), (.p66, .m0F, false, 0x17), (.none, .m0F, false, 0x17), (.p66, .m0F, false, 0x12),
           (.p66, .m0F, false, 0x13), (.none, .m0F, false, 0x13), (.p66, .m0F38, false, 0x2A), (.p66, .m0F38, true, 0x2A),
           (.p66, .m0F, false, 0xE7), (.p66, .m0F, true, 0xE7), (.p66, .m0F, false, 0x2B), (.p66, .m0F, true, 0x2B),
           (.none, .m0F, false, 0x2B), (.none, .m0F, true, 0x2B)] :
        List (SimdPrefix × OpMap × Bool × Byte)),
      ∀ (m : Mode) (v : RegNum) (e : Vex RegField), wfVex m x.2.1 v (e.map RM.reg) = true →
        StepRaisesUd m (vexBytes x.1 x.2.1 x.2.2.1 v x.2.2.2 (e.map RM.reg))) ∧
  (∀ x ∈ ([(.pF2, .m0F, 0xD6), (.p66, .m0F, 0x50), (.none, .m0F, 0x50)] : List (SimdPrefix × OpMap × Byte)),
      ∀ (m : Mode) (e : Legacy MemOp), wfLegacy m x.1 (e.map RM.mem) = true →
        StepRaisesUd m (legacyBytes x.2.1 x.2.2 (e.map RM.mem))) ∧
  (∀ x ∈ ([(.p66, .m0F, false, 0x50), (.p66, .m0F, true, 0x50), (.none, .m0F, false, 0x50), (.none, .m0F, true, 0x50)] :
        List (SimdPrefix × OpMap × Bool × Byte)),
      ∀ (m : Mode) (v : RegNum) (e : Vex MemOp), wfVex m x.2.1 v (e.map RM.mem) = true →
        StepRaisesUd m (vexBytes x.1 x.2.1 x.2.2.1 v x.2.2.2 (e.map RM.mem)))

/-- O8. A step at F0 followed by the encoding of any well-formed instruction is #UD; so is a step at F0, 66, F2 or
F3, or in Mode64 at a REX byte, followed by VEX-format bytes of any opcode. So is a step at a three-byte VEX prefix
whose mmmmm is neither 1, 2 nor 3, in Mode32 with B' = vvvv[3] = 1 and bits 7:6 of its second byte 11b. -/
def Obligations.ForbiddenPrefixesRaiseUd : Prop :=
  (∀ (m : Mode) (i : Instr), i.wf m = true → StepRaisesUd m (0xF0 :: encode i)) ∧
  (∀ (m : Mode) (pp : SimdPrefix) (map : OpMap) (l : Bool) (v : RegNum) (opc : Byte) (e : Vex RM) (p : Prefix),
      wfVex m map v e = true → (p.isSimd = true ∨ p = .lock) →
        StepRaisesUd m (p.byte :: vexBytes pp map l v opc e)) ∧
  (∀ (pp : SimdPrefix) (map : OpMap) (l : Bool) (v : RegNum) (opc : Byte) (e : Vex RM) (r : Rex),
      wfVex .mode64 map v e = true → StepRaisesUd .mode64 (r.byte :: vexBytes pp map l v opc e)) ∧
  (∀ (m : Mode) (b1 b2 : Byte), (m = .mode64 ∨ (b1.extractLsb' 5 3 = 7 ∧ b2.getLsbD 6 = true)) →
      b1.extractLsb' 0 5 ∉ ([1, 2, 3] : List (BitVec 5)) → StepRaisesUd m [0xC4, b1, b2])

/-- O9. Refused as outside the table, with no LOCK before: a byte that starts no instruction in scope (in Mode32 the
REX bytes too); 0F 3A; an opcode under an accepted prefix set of which no row has that prefix and opcode (F3 0F 12,
0F 7E, 66 0F C3, ...), legacy or VEX; in Mode32 C4 or C5 before a byte whose bits 7:6 are not 11b. Refused for its
prefixes: an opcode of the table after two segment overrides, two 67s, two of 66, F2, F3, or a REX not immediately
before 0F; a VEX row after two overrides or two 67s. Refused in Mode32: a three-byte VEX with B' = 0 or vvvv[3] = 0.
(That the prefix set is refused before ModRM is looked at, and after the opcode, is log 19; LOCK is log 11.) -/
def Obligations.OutsideTheTableIsRefused : Prop :=
  (∀ (m : Mode) (ps : List Prefix) (b : Byte) (rest : List Byte), Prefix.lock ∉ ps → readItem m b = none →
      b ∉ ([0x0F, 0xC4, 0xC5] : List Byte) →
        decode m (ps.map Prefix.byte ++ b :: rest) = .refused .outsideTable) ∧
  (∀ (b : Byte), b.extractLsb' 4 4 = 4 → readItem .mode32 b = none) ∧
  (∀ (m : Mode) (ps : List Prefix) (rex : Option Rex) (rest : List Byte), Prefix.lock ∉ ps →
      (m = .mode64 ∨ rex = none) →
        decode m (ps.map Prefix.byte ++ (rex.toList.map Rex.byte ++ 0x0F :: 0x3A :: rest)) =
          .refused .outsideTable) ∧
  (∀ (m : Mode) (pp : SimdPrefix) (ps : List Prefix) (rex : Option Rex) (map : OpMap) (opc : Byte)
      (rest : List Byte), wfPrefixes pp ps = true → (m = .mode64 ∨ rex = none) →
      (map = .m0F → opc ≠ 0x38 ∧ opc ≠ 0x3A) → (pp, map, opc) ∉ legacyOpcodes →
        decode m (ps.map Prefix.byte ++ (rex.toList.map Rex.byte ++ (map.escape ++ opc :: rest))) =
          .refused .outsideTable) ∧
  (∀ (m : Mode) (pp : SimdPrefix) (ps : List Prefix) (f : VexForm) (map : OpMap) (l : Bool) (v : RegNum)
      (opc : Byte) (rest : List Byte), wfPrefixes .none ps = true → wfVexForm m map f = true →
      (m = .mode64 ∨ v.toNat ≤ 7) → (pp, map, opc) ∉ vexOpcodes →
        decode m (ps.map Prefix.byte ++ (vexPrefixBytes f map (~~~v) l pp.code ++ opc :: rest)) =
          .refused .outsideTable) ∧
  (∀ (ps : List Prefix) (b0 b1 : Byte) (rest : List Byte), Prefix.lock ∉ ps → b0 = 0xC4 ∨ b0 = 0xC5 →
      b1.extractLsb' 6 2 ≠ 3 →
        decode .mode32 (ps.map Prefix.byte ++ b0 :: b1 :: rest) = .refused .outsideTable) ∧
  (∀ (m : Mode) (pp : SimdPrefix) (ps : List Prefix) (rex : Option Rex) (map : OpMap) (opc : Byte)
      (rest : List Byte), Prefix.lock ∉ ps → (m = .mode64 ∨ rex = none) → (pp, map, opc) ∈ legacyOpcodes →
      (2 ≤ (ps.filter Prefix.isSeg).length ∨ 2 ≤ ps.count .addrSize ∨ 2 ≤ (ps.filter Prefix.isSimd).length) →
        decode m (ps.map Prefix.byte ++ (rex.toList.map Rex.byte ++ (map.escape ++ opc :: rest))) =
          .refused .prefixSet) ∧
  (∀ (pp : SimdPrefix) (ps qs : List Prefix) (r : Rex) (r' : Option Rex) (map : OpMap) (opc : Byte)
      (rest : List Byte), Prefix.lock ∉ ps → Prefix.lock ∉ qs → (qs ≠ [] ∨ r' ≠ none) →
      (pp, map, opc) ∈ legacyOpcodes →
        decode .mode64 (ps.map Prefix.byte ++ r.byte ::
          (qs.map Prefix.byte ++ (r'.toList.map Rex.byte ++ (map.escape ++ opc :: rest)))) = .refused .prefixSet) ∧
  (∀ (m : Mode) (pp : SimdPrefix) (ps : List Prefix) (f : VexForm) (map : OpMap) (l : Bool) (v : RegNum)
      (opc : Byte) (rest : List Byte), Prefix.lock ∉ ps → ps.filter Prefix.isSimd = [] →
      (2 ≤ (ps.filter Prefix.isSeg).length ∨ 2 ≤ ps.count .addrSize) → wfVexForm m map f = true →
      (m = .mode64 ∨ v.toNat ≤ 7) → (pp, map, opc) ∈ vexOpcodes →
        decode m (ps.map Prefix.byte ++ (vexPrefixBytes f map (~~~v) l pp.code ++ opc :: rest)) =
          .refused .prefixSet) ∧
  (∀ (ps : List Prefix) (b1 b2 : Byte) (rest : List Byte), Prefix.lock ∉ ps → ps.filter Prefix.isSimd = [] →
      b1.extractLsb' 6 2 = 3 → (b1.getLsbD 5 = false ∨ b2.getLsbD 6 = false) →
        decode .mode32 (ps.map Prefix.byte ++ 0xC4 :: b1 :: b2 :: rest) = .refused .vexMode32)

/-- O10. F2 0F 12 CA is MOVDDUP xmm1, xmm2; C5 FE 6F 17 is VMOVDQU ymm2, [rdi]; C5 E1 16 10 is VMOVHPD xmm2, xmm3,
[rax]; C5 E8 16 CB is VMOVLHPS xmm1, xmm2, xmm3; 48 0F C3 06 is MOVNTI [rsi], rax; 0F 6F CA is MOVQ mm1, mm2; 0F 12
C8 is MOVHLPS xmm1, xmm0 and 0F 12 08 is MOVLPS xmm1, [rax]. -/
def Obligations.WordsOfTheSpecDecode : Prop :=
  decode .mode64 [0xF2, 0x0F, 0x12, 0xCA] =
      .instr (.movddup { prefixes := [.repne], rex := none, reg := 1, rm := .reg 2 }) ∧
  decode .mode64 [0xC5, 0xFE, 0x6F, 0x17] =
      .instr (.vmovdquYLoad { prefixes := [], form := .two false, reg := 2, rm := .mem (.base 7 .none) }) ∧
  decode .mode64 [0xC5, 0xE1, 0x16, 0x10] =
      .instr (.vmovhpdLoad 3 { prefixes := [], form := .two false, reg := 2, rm := .base 0 .none }) ∧
  decode .mode64 [0xC5, 0xE8, 0x16, 0xCB] =
      .instr (.vmovlhps 2 { prefixes := [], form := .two false, reg := 1, rm := 3 }) ∧
  decode .mode64 [0x48, 0x0F, 0xC3, 0x06] =
      .instr (.movnti64 { prefixes := [], rex := some { w := true, r := false, x := false, b := false }, reg := 0,
                          rm := .base 6 .none }) ∧
  decode .mode64 [0x0F, 0x6F, 0xCA] =
      .instr (.movqMmLoad { prefixes := [], rex := none, reg := 1, rm := .reg 2 }) ∧
  decode .mode64 [0x0F, 0x12, 0xC8] = .instr (.movhlps { prefixes := [], rex := none, reg := 1, rm := 0 }) ∧
  decode .mode64 [0x0F, 0x12, 0x08] =
      .instr (.movlpsLoad { prefixes := [], rex := none, reg := 1, rm := .base 0 .none })

/-- O11. In Mode64 without 67: base plus sign-extended displacement; base plus index times 2^scale plus
displacement, where the index number 0100b adds nothing; no base; RIP-relative from the next instruction; modulo
2^64. With 67, and in Mode32 without it: the same on bits 31:0 modulo 2^32, zero-extended, and in Mode32 the form
mod = 00b, rm = 101b is the absolute disp32. -/
def Obligations.EffectiveAddress64And32 : Prop :=
  ∀ (s : State) (x b : Bool) (ps : List Prefix) (len : Nat),
    (s.cfg.mode = .mode64 → Prefix.addrSize ∉ ps →
      (∀ rm, s.offset ⟨.base rm .none, x, b, ps, len⟩ = s.gprAt (extend b rm)) ∧
      (∀ rm d, s.offset ⟨.base rm (.d8 d), x, b, ps, len⟩ = s.gprAt (extend b rm) + d.signExtend 64) ∧
      (∀ rm d, s.offset ⟨.base rm (.d32 d), x, b, ps, len⟩ = s.gprAt (extend b rm) + d.signExtend 64) ∧
      (∀ sc ix bs d, extend x ix ≠ 4 →
        s.offset ⟨.sib sc ix bs d, x, b, ps, len⟩ =
          s.gprAt (extend b bs) + s.gprAt (extend x ix) * 2 ^ sc.toNat + dispValue 64 d) ∧
      (∀ sc ix bs d, extend x ix = 4 →
        s.offset ⟨.sib sc ix bs d, x, b, ps, len⟩ = s.gprAt (extend b bs) + dispValue 64 d) ∧
      (∀ sc ix d, extend x ix ≠ 4 →
        s.offset ⟨.sibNoBase sc ix d, x, b, ps, len⟩ = s.gprAt (extend x ix) * 2 ^ sc.toNat + d.signExtend 64) ∧
      (∀ sc ix d, extend x ix = 4 → s.offset ⟨.sibNoBase sc ix d, x, b, ps, len⟩ = d.signExtend 64) ∧
      (∀ d, s.offset ⟨.disp32 d, x, b, ps, len⟩ = s.rip + BitVec.ofNat 64 len + d.signExtend 64)) ∧
    ((s.cfg.mode = .mode64 ↔ Prefix.addrSize ∈ ps) →
      (∀ rm d, s.offset ⟨.base rm d, x, b, ps, len⟩ =
        ((s.gprAt (extend b rm)).setWidth 32 + dispValue 32 d).setWidth 64) ∧
      (∀ sc ix bs d, extend x ix ≠ 4 →
        s.offset ⟨.sib sc ix bs d, x, b, ps, len⟩ =
          ((s.gprAt (extend b bs)).setWidth 32 + (s.gprAt (extend x ix)).setWidth 32 * 2 ^ sc.toNat +
            dispValue 32 d).setWidth 64) ∧
      (∀ sc ix bs d, extend x ix = 4 →
        s.offset ⟨.sib sc ix bs d, x, b, ps, len⟩ =
          ((s.gprAt (extend b bs)).setWidth 32 + dispValue 32 d).setWidth 64) ∧
      (∀ sc ix d, extend x ix ≠ 4 →
        s.offset ⟨.sibNoBase sc ix d, x, b, ps, len⟩ =
          ((s.gprAt (extend x ix)).setWidth 32 * 2 ^ sc.toNat + d).setWidth 64) ∧
      (∀ sc ix d, extend x ix = 4 → s.offset ⟨.sibNoBase sc ix d, x, b, ps, len⟩ = d.setWidth 64) ∧
      (∀ d, s.offset ⟨.disp32 d, x, b, ps, len⟩ =
        match s.cfg.mode with
        | .mode64 => ((s.rip + BitVec.ofNat 64 len).setWidth 32 + d).setWidth 64
        | .mode32 => d.setWidth 64))

/-- O12. In Mode32 with 67: the sums BX+SI, BX+DI, BP+SI, BP+DI, SI, DI, BP, BX on 16-bit registers plus the
sign-extended displacement, modulo 2^16, or the disp16 alone; the default segment is SS for the forms with BP and DS
for the others. -/
def Obligations.EffectiveAddress16 : Prop :=
  ∀ (s : State) (x b : Bool) (ps : List Prefix) (len : Nat) (d : Disp16), s.cfg.mode = .mode32 →
    Prefix.addrSize ∈ ps →
      (∀ v : BitVec 16, s.offset ⟨.disp16 v, x, b, ps, len⟩ = v.setWidth 64) ∧
      (∀ rm : BitVec 3, s.offset ⟨.base16 rm d, x, b, ps, len⟩ =
        ((match rm.toNat with
          | 0 => (s.gprAt 3).setWidth 16 + (s.gprAt 6).setWidth 16
          | 1 => (s.gprAt 3).setWidth 16 + (s.gprAt 7).setWidth 16
          | 2 => (s.gprAt 5).setWidth 16 + (s.gprAt 6).setWidth 16
          | 3 => (s.gprAt 5).setWidth 16 + (s.gprAt 7).setWidth 16
          | 4 => (s.gprAt 6).setWidth 16
          | 5 => (s.gprAt 7).setWidth 16
          | 6 => (s.gprAt 5).setWidth 16
          | _ => (s.gprAt 3).setWidth 16) +
            (match d with
              | .none => 0
              | .d8 v => v.signExtend 16
              | .d16 v => v)).setWidth 64) ∧
      (segOverride ps = none →
        (∀ v : BitVec 16, segOf ⟨.disp16 v, x, b, ps, len⟩ = .ds) ∧
        (∀ rm : BitVec 3, segOf ⟨.base16 rm d, x, b, ps, len⟩ =
          if rm = 2 ∨ rm = 3 ∨ rm = 6 then .ss else .ds))

/-- O13. The segment is that of an override prefix if one is present, else SS when the base register is RSP or RBP
(numbers 4 and 5), else DS. The linear address is the segment base plus the offset, modulo 2^64 in Mode64, where the
bases of CS, DS, ES and SS count as 0, and modulo 2^32 in Mode32. -/
def Obligations.LinearAddress : Prop :=
  ∀ (s : State) (r : MemRef),
    (∀ g, segOverride r.prefixes = some g → segOf r = g) ∧
    (segOverride r.prefixes = none →
      (∀ rm d, r.op = .base rm d → segOf r = if extend r.b rm = 4 ∨ extend r.b rm = 5 then .ss else .ds) ∧
      (∀ sc ix bs d, r.op = .sib sc ix bs d →
        segOf r = if extend r.b bs = 4 ∨ extend r.b bs = 5 then .ss else .ds) ∧
      (∀ sc ix d, r.op = .sibNoBase sc ix d → segOf r = .ds) ∧ (∀ d, r.op = .disp32 d → segOf r = .ds)) ∧
    (s.cfg.mode = .mode64 →
      (segOf r = .fs → s.linear r = s.cfg.seg.fs.base + s.offset r) ∧
      (segOf r = .gs → s.linear r = s.cfg.seg.gs.base + s.offset r) ∧
      (segOf r ≠ .fs → segOf r ≠ .gs → s.linear r = s.offset r)) ∧
    (s.cfg.mode = .mode32 →
      s.linear r = (((s.segment (segOf r)).base + s.offset r).setWidth 32).setWidth 64)

/-- O14. Whatever the r/m operand, the number of a ModRM:reg operand is 8 times R plus the field, and that of a
ModRM:r/m register 8 times B plus the field, R and B from REX (0 without one) or VEX (B is 0 in the two-byte form).
In the six NDS rows a vvvv field n (in a form that is well formed in Mode64) names register 15 - n. An MMX register
has the number of its three-bit field, and changing REX.R, or for a register operand that is an MMX register REX.B,
changes nothing. -/
def Obligations.RegisterNumbers : Prop :=
  (∀ (α : Type) (e : Legacy α) (r : Rex), e.rex = some r → e.regNum.toNat = 8 * r.r.toNat + e.reg.toNat) ∧
  (∀ (α : Type) (e : Legacy α), e.rex = none → e.regNum.toNat = e.reg.toNat) ∧
  (∀ (α : Type) (e : Vex α) (r : Bool), e.form = .two r → e.regNum.toNat = 8 * r.toNat + e.reg.toNat) ∧
  (∀ (α : Type) (e : Vex α) (r x b w : Bool), e.form = .three r x b w →
      e.regNum.toNat = 8 * r.toNat + e.reg.toNat) ∧
  (∀ (e : Legacy RegField) (r : Rex), e.rex = some r → e.rmNum.toNat = 8 * r.b.toNat + e.rm.toNat) ∧
  (∀ e : Legacy RegField, e.rex = none → e.rmNum.toNat = e.rm.toNat) ∧
  (∀ (e : Vex RegField) (r : Bool), e.form = .two r → e.rmNum.toNat = e.rm.toNat) ∧
  (∀ (e : Vex RegField) (r x b w : Bool), e.form = .three r x b w → e.rmNum.toNat = 8 * b.toNat + e.rm.toNat) ∧
  (∀ (e : Legacy RegField) (map : OpMap), (e.map RM.reg).operand map = .reg e.rmNum) ∧
  (∀ e : Vex RegField, (e.map RM.reg).operand = .reg e.rmNum) ∧
  (∀ (n : BitVec 4) (e : Vex RegField) (rest : List Byte), wfVex .mode64 .m0F (~~~n) (e.map RM.reg) = true →
      decode .mode64 (e.prefixes.map Prefix.byte ++ (vexPrefixBytes e.form .m0F n false 0 ++
        (0x12 :: rmBytes e.reg (.reg e.rm) ++ rest))) = .instr (.vmovhlps (BitVec.ofNat 4 (15 - n.toNat)) e)) ∧
  (∀ (n : BitVec 4) (e : Vex RegField) (rest : List Byte), wfVex .mode64 .m0F (~~~n) (e.map RM.reg) = true →
      decode .mode64 (e.prefixes.map Prefix.byte ++ (vexPrefixBytes e.form .m0F n false 0 ++
        (0x16 :: rmBytes e.reg (.reg e.rm) ++ rest))) = .instr (.vmovlhps (BitVec.ofNat 4 (15 - n.toNat)) e)) ∧
  (∀ (n : BitVec 4) (e : Vex MemOp) (rest : List Byte), wfVex .mode64 .m0F (~~~n) (e.map RM.mem) = true →
      decode .mode64 (e.prefixes.map Prefix.byte ++ (vexPrefixBytes e.form .m0F n false 1 ++
        (0x16 :: rmBytes e.reg (.mem e.rm) ++ rest))) = .instr (.vmovhpdLoad (BitVec.ofNat 4 (15 - n.toNat)) e)) ∧
  (∀ (n : BitVec 4) (e : Vex MemOp) (rest : List Byte), wfVex .mode64 .m0F (~~~n) (e.map RM.mem) = true →
      decode .mode64 (e.prefixes.map Prefix.byte ++ (vexPrefixBytes e.form .m0F n false 0 ++
        (0x16 :: rmBytes e.reg (.mem e.rm) ++ rest))) = .instr (.vmovhpsLoad (BitVec.ofNat 4 (15 - n.toNat)) e)) ∧
  (∀ (n : BitVec 4) (e : Vex MemOp) (rest : List Byte), wfVex .mode64 .m0F (~~~n) (e.map RM.mem) = true →
      decode .mode64 (e.prefixes.map Prefix.byte ++ (vexPrefixBytes e.form .m0F n false 1 ++
        (0x12 :: rmBytes e.reg (.mem e.rm) ++ rest))) = .instr (.vmovlpdLoad (BitVec.ofNat 4 (15 - n.toNat)) e)) ∧
  (∀ (n : BitVec 4) (e : Vex MemOp) (rest : List Byte), wfVex .mode64 .m0F (~~~n) (e.map RM.mem) = true →
      decode .mode64 (e.prefixes.map Prefix.byte ++ (vexPrefixBytes e.form .m0F n false 0 ++
        (0x12 :: rmBytes e.reg (.mem e.rm) ++ rest))) = .instr (.vmovlpsLoad (BitVec.ofNat 4 (15 - n.toNat)) e)) ∧
  (∀ e : Legacy RegField, (Instr.movdq2q e).dest = .mmx e.reg ∧ (Instr.movqMmLoad (e.map RM.reg)).dest = .mmx e.reg ∧
      (Instr.movqMmStore (e.map RM.reg)).dest = .mmx e.rm) ∧
  (∀ (ps : List Prefix) (r r' : Rex) (q n : BitVec 3) (op : MemOp) (s : State),
      exec (.movqMmLoad ⟨ps, some r, q, .reg n⟩) s = exec (.movqMmLoad ⟨ps, some r', q, .reg n⟩) s ∧
      exec (.movqMmStore ⟨ps, some r, q, .reg n⟩) s = exec (.movqMmStore ⟨ps, some r', q, .reg n⟩) s ∧
      (r.b = r'.b →
        exec (.movdq2q ⟨ps, some r, q, n⟩) s = exec (.movdq2q ⟨ps, some r', q, n⟩) s ∧
        (r.x = r'.x →
          exec (.movqMmLoad ⟨ps, some r, q, .mem op⟩) s = exec (.movqMmLoad ⟨ps, some r', q, .mem op⟩) s ∧
          exec (.movqMmStore ⟨ps, some r, q, .mem op⟩) s = exec (.movqMmStore ⟨ps, some r', q, .mem op⟩) s ∧
          exec (.movntq ⟨ps, some r, q, op⟩) s = exec (.movntq ⟨ps, some r', q, op⟩) s)))

/-- O15. For a 16-byte operand at a, bits 63:0 are the 8 bytes at a to a+7 and bits 127:64 those at a+8 to a+15; for
a 32-byte operand, bits 191:128 are those at a+16 to a+23 and bits 255:192 those at a+24 to a+31; single-precision
element j is the 4 bytes at a+4j to a+4j+3. Byte k of an operand is read at address a+k. (R52 is the spec's
inference from R51, whose byte order is general knowledge: log 26.) -/
def Obligations.LanePlacement : Prop :=
  (∀ (md : Mode) (a : QWord) (n k : Nat), k < n → (byteAddrs md a n)[k]? = some (addrAdd md a k)) ∧
  (∀ bs : List Byte, bs.length = 16 →
    (leValue 128 bs).extractLsb' 0 64 = leValue 64 (bs.take 8) ∧
    (leValue 128 bs).extractLsb' 64 64 = leValue 64 (bs.drop 8) ∧
    ∀ j, j < 4 → (leValue 128 bs).extractLsb' (32 * j) 32 = leValue 32 ((bs.drop (4 * j)).take 4)) ∧
  (∀ bs : List Byte, bs.length = 32 →
    (leValue 256 bs).extractLsb' 0 64 = leValue 64 (bs.take 8) ∧
    (leValue 256 bs).extractLsb' 64 64 = leValue 64 ((bs.drop 8).take 8) ∧
    (leValue 256 bs).extractLsb' 128 64 = leValue 64 ((bs.drop 16).take 8) ∧
    (leValue 256 bs).extractLsb' 192 64 = leValue 64 ((bs.drop 24).take 8) ∧
    ∀ j, j < 8 → (leValue 256 bs).extractLsb' (32 * j) 32 = leValue 32 ((bs.drop (4 * j)).take 4))

/-- O16. Byte k of a value is bits 8k+7:8k; the bytes of a value whose width is a multiple of 8 read as the value;
and in a memory in its canonical form, a value written at distinct locations is read back from them. -/
def Obligations.StoredValueIsReadBack : Prop :=
  ∀ (w : Nat) (v : BitVec w), 8 ∣ w →
    (∀ k, k < w / 8 → (leBytes (w / 8) v)[k]? = some (v.extractLsb' (8 * k) 8)) ∧
    leValue w (leBytes (w / 8) v) = v ∧
    ∀ (mem : Memory) (locs : List Nat), mem.wf → locs.Nodup → (∀ a ∈ locs, a < 2 ^ 64) → locs.length = w / 8 →
      leValue w ((mem.writeAll locs (leBytes (w / 8) v)).readAll locs) = v

/-- O17. For every LA_BITS from 1 to 64, an address is canonical exactly when each of its bits from LA_BITS-1 up to
63 equals bit 63; the launch configuration has LA_BITS = 48. (R59 is general knowledge: log 26.) -/
def Obligations.CanonicalAddresses : Prop :=
  (∀ (laBits : Nat) (a : QWord), 1 ≤ laBits → laBits ≤ 64 →
      (canonical laBits a = true ↔ ∀ i, laBits - 1 ≤ i → i < 64 → a.getLsbD i = a.getLsbD 63)) ∧
    Config.launch.laBits = 48

/-- O18. An access that passes offset FFFFH under 16-bit addressing is refused. Otherwise: a bad address form raises
#SS(0) through SS, except that in Mode32 a null SS, or a write to a read-only SS, is #GP(0), and #GP(0) through any
other segment; then a misaligned operand of an aligned move raises #GP(0); then the first byte that is not "ok"
raises what the oracle answers, #PF with the code and the address of the answer, or is refused if it is a device's;
then #AC(0) under alignment checking; then a store that overlaps the program text is refused; and otherwise the
access goes to the bytes' locations. In Mode64 the form is bad when some byte's address is not canonical; in Mode32
when the segment is null, when the access is a write and the segment read-only, or when some byte's offset, modulo
2^32, is above the segment limit. (The model's choices: an offset modulo 2^32, and #GP(0) where a null or read-only
SS is passed too, log 13; the refusal at FFFFH first, log 15; the first byte that fails reported, log 5. The order
is D8.) -/
def Obligations.OrderOfAccessChecks : Prop :=
  ∀ (kind : AccessKind) (al : AlignRule) (n : Nat) (r : MemRef) (s : State),
    (s.passesSegmentEnd r n = true ↔
      addrSize s.cfg.mode r.prefixes = .a16 ∧ 0xFFFF < (s.offset r).toNat + (n - 1)) ∧
    (s.cfg.mode = .mode64 →
      (s.addressForm kind r n = true ↔
        ∀ a ∈ byteAddrs .mode64 (s.linear r) n, canonical s.cfg.laBits a = true)) ∧
    (s.cfg.mode = .mode32 →
      (s.addressForm kind r n = true ↔
        (s.segment (segOf r)).null = false ∧ (kind = .write → (s.segment (segOf r)).writable = true) ∧
          ∀ k, k < n → ((s.offset r).toNat + k) % 2 ^ 32 ≤ (s.segment (segOf r)).limit.toNat)) ∧
    (s.passesSegmentEnd r n = true → memAccess kind al n r s = .refuse .segmentEnd16) ∧
    (s.passesSegmentEnd r n = false →
      (s.addressForm kind r n = false →
        (segOf r ≠ .ss → memAccess kind al n r s = .raise .gp) ∧
        (segOf r = .ss → s.cfg.mode = .mode64 → memAccess kind al n r s = .raise .ss) ∧
        (segOf r = .ss → s.cfg.mode = .mode32 →
          (s.cfg.seg.ss.null = false → (kind = .write → s.cfg.seg.ss.writable = true) →
            memAccess kind al n r s = .raise .ss) ∧
          (s.cfg.seg.ss.null = true ∨ (kind = .write ∧ s.cfg.seg.ss.writable = false) →
            memAccess kind al n r s = .raise .gp))) ∧
      (s.addressForm kind r n = true →
        (∀ k, al = .required k → (s.linear r).toNat % k ≠ 0 → memAccess kind al n r s = .raise .gp) ∧
        ((∀ k, al = .required k → (s.linear r).toNat % k = 0) →
          (∀ (pre post : List QWord) (a : QWord) (locs : List Nat),
            byteAddrs s.cfg.mode (s.linear r) n = pre ++ a :: post → s.Located kind pre locs →
              (∀ c b, s.accessByte kind a = .pf c b → memAccess kind al n r s = .raise (.pf c b)) ∧
              (s.accessByte kind a = .gp → memAccess kind al n r s = .raise .gp) ∧
              (s.accessByte kind a = .ss → memAccess kind al n r s = .raise .ss) ∧
              (s.accessByte kind a = .device → memAccess kind al n r s = .refuse .device)) ∧
          (∀ locs, s.Located kind (byteAddrs s.cfg.mode (s.linear r) n) locs →
            (∀ k, al = .definite k → s.alignCheck = true → (s.linear r).toNat % k ≠ 0 →
              memAccess kind al n r s = .raise .ac) ∧
            (al.Met s (s.linear r) → kind = .write →
              s.overlapsText (byteAddrs s.cfg.mode (s.linear r) n) locs = true →
                memAccess kind al n r s = .refuse .storeToText) ∧
            (al.Met s (s.linear r) →
              (kind = .write → s.overlapsText (byteAddrs s.cfg.mode (s.linear r) n) locs = false) →
                memAccess kind al n r s = .ok (s, locs))))))

/-- O19. Each of these rows, with a memory operand whose address form is good and whose linear address is no
multiple of its 16 or 32 bytes, is #GP(0) wherever its check procedure lets pass, before the oracle is asked; what
must be aligned is aligned on its own size, 16 or 32, and no other row asks for alignment. -/
def Obligations.AlignedMovesRaiseGp : Prop :=
  (∀ (i : Instr) (s : State) (a : MemAccess) (n : Nat), i.gate.Ready s → i.access = some a → a.align = .required n →
      s.passesSegmentEnd a.ref a.size = false → s.addressForm a.kind a.ref a.size = true →
        (s.linear a.ref).toNat % n ≠ 0 → exec i s = .fault (.gp 0 s.rip)) ∧
    ∀ (i : Instr) (a : MemAccess) (n : Nat), i.access = some a → a.align = .required n →
      n = a.size ∧ (n = 16 ∨ n = 32)

/-- O20. Alignment checking is on exactly when CR0.AM (bit 18) and RFLAGS.AC (bit 18) are 1 and CPL is 3. Then every
row with an 8- or 4-byte memory operand whose address is no multiple of its size is #AC(0), its check procedure and
every other check of the access letting pass. -/
def Obligations.NarrowAccessesRaiseAc : Prop :=
  (∀ s : State, s.alignCheck = true ↔ s.cr0.getLsbD 18 = true ∧ s.rflags.getLsbD 18 = true ∧ s.cpl = 3) ∧
    ∀ (i : Instr) (s : State) (a : MemAccess) (n : Nat) (locs : List Nat), i.gate.Ready s → i.access = some a →
      a.align = .definite n → s.alignCheck = true → (s.linear a.ref).toNat % n ≠ 0 →
        s.withoutAc.Accessible a.kind a.align a.size a.ref locs → exec i s = .fault (.ac 0 s.rip)

/-- O21. MOVDDUP, VMOVDDUP xmm and VMOVDDUP ymm complete wherever their check procedure lets pass (and a memory
operand is accessible). The destination holds the low quadword twice (the 256-bit form: each even quadword twice),
with bits 255:128 kept by the legacy form and zeroed by VEX.128; RIP is past the instruction; no other register, no
flag, no system state and no byte of memory changes. -/
def Obligations.MovddupDuplicates : Prop :=
  (∀ (e : Legacy RegField), MovesVector (.movddup (e.map RM.reg)) e.regNum
    fun s => s.upperAt e.regNum ++ (s.lowAt e.rmNum ++ s.lowAt e.rmNum)) ∧
  (∀ (e : Legacy MemOp), LoadsVector (.movddup (e.map RM.mem)) (.definite 8) (e.memRef .m0F) e.regNum
    fun s (m : BitVec 64) => s.upperAt e.regNum ++ (m ++ m)) ∧
  (∀ (e : Vex RegField), MovesVector (.vmovddupX (e.map RM.reg)) e.regNum
    fun s => 0#128 ++ (s.lowAt e.rmNum ++ s.lowAt e.rmNum)) ∧
  (∀ (e : Vex MemOp), LoadsVector (.vmovddupX (e.map RM.mem)) (.definite 8) e.memRef e.regNum
    fun _ (m : BitVec 64) => 0#128 ++ (m ++ m)) ∧
  (∀ (e : Vex RegField), MovesVector (.vmovddupY (e.map RM.reg)) e.regNum
    fun s => (s.ymmAt e.rmNum).extractLsb' 128 64 ++ (s.ymmAt e.rmNum).extractLsb' 128 64 ++
      (s.ymmAt e.rmNum).extractLsb' 0 64 ++ (s.ymmAt e.rmNum).extractLsb' 0 64) ∧
  (∀ (e : Vex MemOp), LoadsVector (.vmovddupY (e.map RM.mem)) (.draw 32) e.memRef e.regNum
    fun _ (m : BitVec 256) => m.extractLsb' 128 64 ++ m.extractLsb' 128 64 ++ m.extractLsb' 0 64 ++
      m.extractLsb' 0 64)

/-- O22. With a register operand the twelve MOVDQA and MOVDQU rows complete wherever their check procedure lets
pass. Opcode 6F copies r/m to reg, opcode 7F reg to r/m: bits 127:0 with the bits above kept by the legacy forms and
zeroed by VEX.128, all 256 bits by VEX.256. Nothing else changes but RIP. -/
def Obligations.DoubleQuadwordRegisterMoves : Prop :=
  (∀ (e : Legacy RegField), MovesVector (.movdqaLoad (e.map RM.reg)) e.regNum
    fun s => s.upperAt e.regNum ++ s.xmmAt e.rmNum) ∧
  (∀ (e : Legacy RegField), MovesVector (.movdqaStore (e.map RM.reg)) e.rmNum
    fun s => s.upperAt e.rmNum ++ s.xmmAt e.regNum) ∧
  (∀ (e : Vex RegField), MovesVector (.vmovdqaXLoad (e.map RM.reg)) e.regNum
    fun s => 0#128 ++ s.xmmAt e.rmNum) ∧
  (∀ (e : Vex RegField), MovesVector (.vmovdqaXStore (e.map RM.reg)) e.rmNum
    fun s => 0#128 ++ s.xmmAt e.regNum) ∧
  (∀ (e : Vex RegField), MovesVector (.vmovdqaYLoad (e.map RM.reg)) e.regNum
    fun s => s.ymmAt e.rmNum) ∧
  (∀ (e : Vex RegField), MovesVector (.vmovdqaYStore (e.map RM.reg)) e.rmNum
    fun s => s.ymmAt e.regNum) ∧
  (∀ (e : Legacy RegField), MovesVector (.movdquLoad (e.map RM.reg)) e.regNum
    fun s => s.upperAt e.regNum ++ s.xmmAt e.rmNum) ∧
  (∀ (e : Legacy RegField), MovesVector (.movdquStore (e.map RM.reg)) e.rmNum
    fun s => s.upperAt e.rmNum ++ s.xmmAt e.regNum) ∧
  (∀ (e : Vex RegField), MovesVector (.vmovdquXLoad (e.map RM.reg)) e.regNum
    fun s => 0#128 ++ s.xmmAt e.rmNum) ∧
  (∀ (e : Vex RegField), MovesVector (.vmovdquXStore (e.map RM.reg)) e.rmNum
    fun s => 0#128 ++ s.xmmAt e.regNum) ∧
  (∀ (e : Vex RegField), MovesVector (.vmovdquYLoad (e.map RM.reg)) e.regNum
    fun s => s.ymmAt e.rmNum) ∧
  (∀ (e : Vex RegField), MovesVector (.vmovdquYStore (e.map RM.reg)) e.rmNum
    fun s => s.ymmAt e.regNum)

/-- O23. The six load rows complete wherever their check procedure lets pass and the 16- or 32-byte operand is
accessible (MOVDQA: aligned on its size; MOVDQU: any address, and 8-byte aligned where alignment checking is on).
The destination holds the bytes of the operand, little-endian; the bits above are kept, zeroed or part of the
operand by the form. Nothing else changes but RIP. -/
def Obligations.DoubleQuadwordLoads : Prop :=
  (∀ (e : Legacy MemOp), LoadsVector (.movdqaLoad (e.map RM.mem)) (.required 16) (e.memRef .m0F) e.regNum
    fun s (m : BitVec 128) => s.upperAt e.regNum ++ m) ∧
  (∀ (e : Vex MemOp), LoadsVector (.vmovdqaXLoad (e.map RM.mem)) (.required 16) e.memRef e.regNum
    fun _ (m : BitVec 128) => 0#128 ++ m) ∧
  (∀ (e : Vex MemOp), LoadsVector (.vmovdqaYLoad (e.map RM.mem)) (.required 32) e.memRef e.regNum
    fun _ (m : BitVec 256) => m) ∧
  (∀ (e : Legacy MemOp), LoadsVector (.movdquLoad (e.map RM.mem)) (.draw 8) (e.memRef .m0F) e.regNum
    fun s (m : BitVec 128) => s.upperAt e.regNum ++ m) ∧
  (∀ (e : Vex MemOp), LoadsVector (.vmovdquXLoad (e.map RM.mem)) (.draw 8) e.memRef e.regNum
    fun _ (m : BitVec 128) => 0#128 ++ m) ∧
  (∀ (e : Vex MemOp), LoadsVector (.vmovdquYLoad (e.map RM.mem)) (.draw 8) e.memRef e.regNum
    fun _ (m : BitVec 256) => m)

/-- O24. The six store rows complete wherever their check procedure lets pass and the operand is accessible for
writing. The bytes at the operand's locations are the little-endian bytes of the source register (16 or 32 of them);
every other byte of memory reads as before, and no register but RIP changes. -/
def Obligations.DoubleQuadwordStores : Prop :=
  (∀ e : Legacy MemOp, StoresTo (w := 128) (.movdqaStore (e.map RM.mem)) (.required 16) (e.memRef .m0F)
    (fun s => s.xmmAt e.regNum) SameTags) ∧
  (∀ e : Vex MemOp, StoresTo (w := 128) (.vmovdqaXStore (e.map RM.mem)) (.required 16) e.memRef
    (fun s => s.xmmAt e.regNum) SameTags) ∧
  (∀ e : Vex MemOp, StoresTo (w := 256) (.vmovdqaYStore (e.map RM.mem)) (.required 32) e.memRef
    (fun s => s.ymmAt e.regNum) SameTags) ∧
  (∀ e : Legacy MemOp, StoresTo (w := 128) (.movdquStore (e.map RM.mem)) (.draw 8) (e.memRef .m0F)
    (fun s => s.xmmAt e.regNum) SameTags) ∧
  (∀ e : Vex MemOp, StoresTo (w := 128) (.vmovdquXStore (e.map RM.mem)) (.draw 8) e.memRef
    (fun s => s.xmmAt e.regNum) SameTags) ∧
  (∀ e : Vex MemOp, StoresTo (w := 256) (.vmovdquYStore (e.map RM.mem)) (.draw 8) e.memRef
    (fun s => s.ymmAt e.regNum) SameTags)

/-- O25. Where alignment checking is on and the operand of a MOVDQU row (VMOVDDUP ymm) is not a multiple of 8 (32),
and every other check lets pass, the outcome is a draw, whatever its value: #AC(0), or completion exactly as with
alignment checking off, the draw counter one higher. That the draw is read at a counter in State is the model's form
(log 4). -/
def Obligations.AlignmentCheckDrawn : Prop :=
  ∀ (i : Instr) (s : State) (a : MemAccess) (n : Nat) (locs : List Nat),
    i.gate.Ready s → i.access = some a → a.align = .draw n → s.alignCheck = true →
      (s.linear a.ref).toNat % n ≠ 0 → s.withoutAc.Accessible a.kind a.align a.size a.ref locs →
        (Config.acDraw s.draws = true → exec i s = .fault (.ac 0 s.rip)) ∧
          (Config.acDraw s.draws = false →
            ∃ u, exec i s.withoutAc = .next u ∧
              exec i s = .next { u with rflags := s.rflags, draws := s.draws + 1 })

/-- O26. MOVDQ2Q completes wherever CheckMOVDQ2Q lets pass: MM[reg] holds the low quadword of XMM[{B, rm}], bits
79:64 of the x87 register are ones, TOP and FTW are 0, RIP is past the instruction, and nothing else changes. -/
def Obligations.Movdq2qMovesAndTransitions : Prop :=
  ∀ e : Legacy RegField, MovesMmx (.movdq2q e) e.reg fun s => s.lowAt e.rmNum

/-- O27. MOVHLPS puts the high quadword of r/m in the low half of the destination, MOVLHPS the low quadword of r/m
in its high half; the other half is the destination's own (legacy, bits 255:128 kept) or that of the vvvv register
(VEX, bits 255:128 zeroed). Each completes so wherever its check procedure (CheckSSE(SSE), CheckVEX(AVX)) lets pass,
with RIP past the instruction and nothing else changed; where it does not, the outcome is its #UD or #NM, and
nothing else stops the instruction. 0F 12 and 0F 16, no mandatory prefix, and VEX.128.0F 12 and 16, each with mod =
11b, are their encodings; with VEX.L = 1 a step at these is #UD. (What the procedures check is R270, R271: log 26.)
-/
def Obligations.HalfRegisterMoves : Prop :=
  (∀ (e : Legacy RegField), MovesVector (.movhlps e) e.regNum
    fun s => s.upperAt e.regNum ++ (s.highAt e.regNum ++ s.highAt e.rmNum)) ∧
  (∀ (v : RegNum) (e : Vex RegField), MovesVector (.vmovhlps v e) e.regNum
    fun s => 0#128 ++ (s.highAt v ++ s.highAt e.rmNum)) ∧
  (∀ (e : Legacy RegField), MovesVector (.movlhps e) e.regNum
    fun s => s.upperAt e.regNum ++ (s.lowAt e.rmNum ++ s.lowAt e.regNum)) ∧
  (∀ (v : RegNum) (e : Vex RegField), MovesVector (.vmovlhps v e) e.regNum
    fun s => 0#128 ++ (s.lowAt e.rmNum ++ s.lowAt v)) ∧
  (∀ e : Legacy RegField, StopsOnlyAtGate (.movhlps e) (.sse .sse) ∧ StopsOnlyAtGate (.movlhps e) (.sse .sse)) ∧
  (∀ (v : RegNum) (e : Vex RegField), StopsOnlyAtGate (.vmovhlps v e) (.vex .avx) ∧
    StopsOnlyAtGate (.vmovlhps v e) (.vex .avx)) ∧
  (∀ (m : Mode) (e : Legacy RegField) (rest : List Byte), wfLegacy m .none (e.map RM.reg) = true →
    decode m (legacyBytes .m0F 0x12 (e.map RM.reg) ++ rest) = .instr (.movhlps e) ∧
      decode m (legacyBytes .m0F 0x16 (e.map RM.reg) ++ rest) = .instr (.movlhps e)) ∧
  (∀ (m : Mode) (v : RegNum) (e : Vex RegField) (rest : List Byte), wfVex m .m0F v (e.map RM.reg) = true →
    decode m (vexBytes .none .m0F false v 0x12 (e.map RM.reg) ++ rest) = .instr (.vmovhlps v e) ∧
      decode m (vexBytes .none .m0F false v 0x16 (e.map RM.reg) ++ rest) = .instr (.vmovlhps v e) ∧
        StepRaisesUd m (vexBytes .none .m0F true v 0x12 (e.map RM.reg)) ∧
          StepRaisesUd m (vexBytes .none .m0F true v 0x16 (e.map RM.reg)))

/-- O28. The eight half loads complete wherever their check procedure lets pass and the 8-byte operand is
accessible: the H forms put the operand in the high half, the L forms in the low half; the other half is the
destination's own (legacy) or that of the register VEX.vvvv names; bits 255:128 are kept (legacy) or zeroed (VEX).
Nothing else changes but RIP. -/
def Obligations.HalfLoads : Prop :=
  (∀ (e : Legacy MemOp), LoadsVector (.movhpdLoad e) (.definite 8) (e.memRef .m0F) e.regNum
    fun s (m : BitVec 64) => s.upperAt e.regNum ++ (m ++ s.lowAt e.regNum)) ∧
  (∀ (v : RegNum) (e : Vex MemOp), LoadsVector (.vmovhpdLoad v e) (.definite 8) e.memRef e.regNum
    fun s (m : BitVec 64) => 0#128 ++ (m ++ s.lowAt v)) ∧
  (∀ (e : Legacy MemOp), LoadsVector (.movhpsLoad e) (.definite 8) (e.memRef .m0F) e.regNum
    fun s (m : BitVec 64) => s.upperAt e.regNum ++ (m ++ s.lowAt e.regNum)) ∧
  (∀ (v : RegNum) (e : Vex MemOp), LoadsVector (.vmovhpsLoad v e) (.definite 8) e.memRef e.regNum
    fun s (m : BitVec 64) => 0#128 ++ (m ++ s.lowAt v)) ∧
  (∀ (e : Legacy MemOp), LoadsVector (.movlpdLoad e) (.definite 8) (e.memRef .m0F) e.regNum
    fun s (m : BitVec 64) => s.upperAt e.regNum ++ (s.highAt e.regNum ++ m)) ∧
  (∀ (v : RegNum) (e : Vex MemOp), LoadsVector (.vmovlpdLoad v e) (.definite 8) e.memRef e.regNum
    fun s (m : BitVec 64) => 0#128 ++ (s.highAt v ++ m)) ∧
  (∀ (e : Legacy MemOp), LoadsVector (.movlpsLoad e) (.definite 8) (e.memRef .m0F) e.regNum
    fun s (m : BitVec 64) => s.upperAt e.regNum ++ (s.highAt e.regNum ++ m)) ∧
  (∀ (v : RegNum) (e : Vex MemOp), LoadsVector (.vmovlpsLoad v e) (.definite 8) e.memRef e.regNum
    fun s (m : BitVec 64) => 0#128 ++ (s.highAt v ++ m))

/-- O29. The eight half stores complete wherever their check procedure lets pass and the 8-byte operand is
accessible for writing: the H forms store the high quadword of the source, the L forms the low one; every other byte
of memory reads as before, and no register but RIP changes. -/
def Obligations.HalfStores : Prop :=
  (∀ e : Legacy MemOp, StoresTo (w := 64) (.movhpdStore e) (.definite 8) (e.memRef .m0F)
    (fun s => s.highAt e.regNum) SameTags) ∧
  (∀ e : Vex MemOp, StoresTo (w := 64) (.vmovhpdStore e) (.definite 8) e.memRef
    (fun s => s.highAt e.regNum) SameTags) ∧
  (∀ e : Legacy MemOp, StoresTo (w := 64) (.movhpsStore e) (.definite 8) (e.memRef .m0F)
    (fun s => s.highAt e.regNum) SameTags) ∧
  (∀ e : Vex MemOp, StoresTo (w := 64) (.vmovhpsStore e) (.definite 8) e.memRef
    (fun s => s.highAt e.regNum) SameTags) ∧
  (∀ e : Legacy MemOp, StoresTo (w := 64) (.movlpdStore e) (.definite 8) (e.memRef .m0F)
    (fun s => s.lowAt e.regNum) SameTags) ∧
  (∀ e : Vex MemOp, StoresTo (w := 64) (.vmovlpdStore e) (.definite 8) e.memRef
    (fun s => s.lowAt e.regNum) SameTags) ∧
  (∀ e : Legacy MemOp, StoresTo (w := 64) (.movlpsStore e) (.definite 8) (e.memRef .m0F)
    (fun s => s.lowAt e.regNum) SameTags) ∧
  (∀ e : Vex MemOp, StoresTo (w := 64) (.vmovlpsStore e) (.definite 8) e.memRef
    (fun s => s.lowAt e.regNum) SameTags)

/-- O30. The six rows complete wherever their check procedure lets pass: bit j of the destination is the top bit of
element j of the source (2 or 4 quadwords, 4 or 8 doublewords) and 0 beyond the last element, over 64 bits in Mode64
and 32 in Mode32. Nothing else changes but RIP. -/
def Obligations.SignMasks : Prop :=
  (∀ e : Legacy RegField, MasksSigns (.movmskpd e) e.regNum 64 2 fun s => s.ymmAt e.rmNum) ∧
  (∀ e : Vex RegField, MasksSigns (.vmovmskpdX e) e.regNum 64 2 fun s => s.ymmAt e.rmNum) ∧
  (∀ e : Vex RegField, MasksSigns (.vmovmskpdY e) e.regNum 64 4 fun s => s.ymmAt e.rmNum) ∧
  (∀ e : Legacy RegField, MasksSigns (.movmskps e) e.regNum 32 4 fun s => s.ymmAt e.rmNum) ∧
  (∀ e : Vex RegField, MasksSigns (.vmovmskpsX e) e.regNum 32 4 fun s => s.ymmAt e.rmNum) ∧
  (∀ e : Vex RegField, MasksSigns (.vmovmskpsY e) e.regNum 32 8 fun s => s.ymmAt e.rmNum)

/-- O31. The three streaming loads complete wherever their check procedure lets pass and the operand is accessible,
16- or 32-byte aligned: the destination holds the operand, the bits above kept (legacy) or zeroed (VEX.128);
VMOVNTDQA ymm writes all VLMAX bits. Nothing else changes but RIP. (With AVX2 and without AVX, VLMAX is 128 and the
256-bit row writes the 128 bits that the register has: the model's choice, log 14; R212 writes 255:0.) -/
def Obligations.StreamingLoads : Prop :=
  (∀ (e : Legacy MemOp), LoadsVector (.movntdqa e) (.required 16) (e.memRef .m0F38) e.regNum
    fun s (m : BitVec 128) => s.upperAt e.regNum ++ m) ∧
  (∀ (e : Vex MemOp), LoadsVector (.vmovntdqaX e) (.required 16) e.memRef e.regNum
    fun _ (m : BitVec 128) => 0#128 ++ m) ∧
  (∀ (e : Vex MemOp) (s : State) (locs : List Nat), (Instr.vmovntdqaY e).gate.Ready s →
    s.Accessible .read (.required 32) 32 e.memRef locs →
      ∃ t, exec (.vmovntdqaY e) s = .next t ∧
        t.xmmAt e.regNum = (leValue 256 (s.mem.readAll locs)).extractLsb' 0 128 ∧
        (s.vlmax = 256 → t.ymmAt e.regNum = leValue 256 (s.mem.readAll locs)) ∧
        t.rip = s.nextRip (encode (.vmovntdqaY e)).length ∧ OnlyVector e.regNum s t)

/-- O32. The nine rows complete wherever their check procedure lets pass and the operand is accessible for writing,
16- or 32-byte aligned: its bytes are the little-endian bytes of the source register; every other byte of memory
reads as before, and no register but RIP changes. -/
def Obligations.NonTemporalVectorStores : Prop :=
  (∀ e : Legacy MemOp, StoresTo (w := 128) (.movntdq e) (.required 16) (e.memRef .m0F)
    (fun s => s.xmmAt e.regNum) SameTags) ∧
  (∀ e : Vex MemOp, StoresTo (w := 128) (.vmovntdqX e) (.required 16) e.memRef
    (fun s => s.xmmAt e.regNum) SameTags) ∧
  (∀ e : Vex MemOp, StoresTo (w := 256) (.vmovntdqY e) (.required 32) e.memRef
    (fun s => s.ymmAt e.regNum) SameTags) ∧
  (∀ e : Legacy MemOp, StoresTo (w := 128) (.movntpd e) (.required 16) (e.memRef .m0F)
    (fun s => s.xmmAt e.regNum) SameTags) ∧
  (∀ e : Vex MemOp, StoresTo (w := 128) (.vmovntpdX e) (.required 16) e.memRef
    (fun s => s.xmmAt e.regNum) SameTags) ∧
  (∀ e : Vex MemOp, StoresTo (w := 256) (.vmovntpdY e) (.required 32) e.memRef
    (fun s => s.ymmAt e.regNum) SameTags) ∧
  (∀ e : Legacy MemOp, StoresTo (w := 128) (.movntps e) (.required 16) (e.memRef .m0F)
    (fun s => s.xmmAt e.regNum) SameTags) ∧
  (∀ e : Vex MemOp, StoresTo (w := 128) (.vmovntpsX e) (.required 16) e.memRef
    (fun s => s.xmmAt e.regNum) SameTags) ∧
  (∀ e : Vex MemOp, StoresTo (w := 256) (.vmovntpsY e) (.required 32) e.memRef
    (fun s => s.ymmAt e.regNum) SameTags)

/-- O33. MOVNTI completes wherever CPUID.SSE2 = 1 and the operand is accessible for writing, whatever CR0.EM, CR0.TS
and CR4.OSFXSR are: the 4 bytes of GPR[31:0], or with REX.W the 8 bytes of GPR[63:0], are stored; every other byte
of memory reads as before, and no register but RIP changes. -/
def Obligations.NonTemporalIntegerStores : Prop :=
  (∀ e : Legacy MemOp, StoresTo (w := 32) (.movnti32 e) (.definite 4) (e.memRef .m0F)
    (fun s => (s.gprAt e.regNum).extractLsb' 0 32) SameTags) ∧
  (∀ e : Legacy MemOp, StoresTo (w := 64) (.movnti64 e) (.definite 8) (e.memRef .m0F)
    (fun s => s.gprAt e.regNum) SameTags)

/-- O34. The two rows complete wherever CheckMMX lets pass and the 8-byte operand is accessible for writing: its
bytes are those of MM[reg], TOP and FTW are 0; every other byte of memory reads as before, and no other register but
RIP changes. -/
def Obligations.MmxStores : Prop :=
  (∀ e : Legacy MemOp, StoresTo (w := 64) (.movntq e) (.definite 8) (e.memRef .m0F)
    (fun s => s.mmAt e.reg) MmxTags) ∧
  (∀ e : Legacy MemOp, StoresTo (w := 64) (.movqMmStore (e.map RM.mem)) (.definite 8) (e.memRef .m0F)
    (fun s => s.mmAt e.reg) MmxTags)

/-- O35. MOVQ with an MMX destination completes wherever CheckMMX lets pass (and a memory operand is accessible): MM
of the three-bit number holds the source quadword, bits 79:64 of the x87 register are ones, TOP and FTW are 0, RIP
is past the instruction, and nothing else changes. REX bits do not extend MMX numbers. -/
def Obligations.MovqMmxMoves : Prop :=
  (∀ e : Legacy RegField, MovesMmx (.movqMmLoad (e.map RM.reg)) e.reg fun s => s.mmAt e.rm) ∧
  (∀ e : Legacy RegField, MovesMmx (.movqMmStore (e.map RM.reg)) e.rm fun s => s.mmAt e.reg) ∧
  (∀ (e : Legacy MemOp) (s : State) (locs : List Nat), (Instr.movqMmLoad (e.map RM.mem)).gate.Ready s →
    s.Accessible .read (.definite 8) 8 (e.memRef .m0F) locs →
      ∃ t, exec (.movqMmLoad (e.map RM.mem)) s = .next t ∧
        MmxWritten (.movqMmLoad (e.map RM.mem)) e.reg (leValue 64 (s.mem.readAll locs)) s t)

/-- O36. MOVQ and VMOVQ with an XMM destination complete wherever their check procedure lets pass (and a memory
operand is accessible): the low quadword is the source's, bits 127:64 are 0, bits 255:128 are kept (legacy) or 0
(VEX). Nothing else changes but RIP. -/
def Obligations.MovqXmmMoves : Prop :=
  (∀ (e : Legacy RegField), MovesVector (.movqXmmLoad (e.map RM.reg)) e.regNum
    fun s => s.upperAt e.regNum ++ (0#64 ++ s.lowAt e.rmNum)) ∧
  (∀ (e : Legacy MemOp), LoadsVector (.movqXmmLoad (e.map RM.mem)) (.definite 8) (e.memRef .m0F) e.regNum
    fun s (m : BitVec 64) => s.upperAt e.regNum ++ (0#64 ++ m)) ∧
  (∀ (e : Vex RegField), MovesVector (.vmovqReg e) e.regNum
    fun s => 0#128 ++ (0#64 ++ s.lowAt e.rmNum)) ∧
  (∀ (e : Vex MemOp), LoadsVector (.vmovqLoad e) (.definite 8) e.memRef e.regNum
    fun _ (m : BitVec 64) => 0#128 ++ (0#64 ++ m)) ∧
  (∀ (e : Legacy RegField), MovesVector (.movqXmmStore (e.map RM.reg)) e.rmNum
    fun s => s.upperAt e.rmNum ++ (0#64 ++ s.lowAt e.regNum)) ∧
  (∀ (e : Vex RegField), MovesVector (.vmovqStore (e.map RM.reg)) e.rmNum
    fun s => 0#128 ++ (0#64 ++ s.lowAt e.regNum))

/-- O37. The two rows with a memory operand complete wherever their check procedure lets pass and the 8-byte operand
is accessible for writing: its bytes are those of the low quadword of the source; every other byte of memory reads
as before, and no register but RIP changes. -/
def Obligations.MovqXmmStores : Prop :=
  (∀ e : Legacy MemOp, StoresTo (w := 64) (.movqXmmStore (e.map RM.mem)) (.definite 8) (e.memRef .m0F)
    (fun s => s.lowAt e.regNum) SameTags) ∧
  (∀ e : Vex MemOp, StoresTo (w := 64) (.vmovqStore (e.map RM.mem)) (.definite 8) e.memRef
    (fun s => s.lowAt e.regNum) SameTags)

/-- O38. For every row with a memory operand, wherever its check procedure lets pass: if the checks of the access
(of the row's kind, width and alignment rule) raise an exception, the instruction's outcome is that fault; if they
refuse, it is that refusal. -/
def Obligations.AccessOutcomesAreTheInstructions : Prop :=
  ∀ (i : Instr) (s : State) (a : MemAccess), i.gate.Ready s → i.access = some a →
    (∀ e, memAccess a.kind a.align a.size a.ref s = .raise e → exec i s = .fault (exnFault e s.rip)) ∧
      ∀ r, memAccess a.kind a.align a.size a.ref s = .refuse r → exec i s = .refused r

/-- O39. CheckSSE(f) raises #UD if CR0.EM (bit 2) = 1, if CR4.OSFXSR (bit 9) = 0 or if CPUID.f = 0, else #NM if
CR0.TS (bit 3) = 1, else lets pass. (R270 is general knowledge: log 26.) -/
def Obligations.CheckSseProcedure : Prop :=
  ∀ (f : Feature) (s : State),
    checkSSE f s =
      if s.cr0.getLsbD 2 = true then .raise .ud
      else if s.cr4.getLsbD 9 = false then .raise .ud
      else if s.has f = false then .raise .ud
      else if s.cr0.getLsbD 3 = true then .raise .nm
      else .ok ()

/-- O40. CheckVEX(f) raises #UD if CR4.OSXSAVE (bit 18) = 0, if XCR0[2:1] is not 11b or if CPUID.f = 0, else #NM if
CR0.TS (bit 3) = 1, else lets pass; CR0.EM and CR4.OSFXSR are not consulted. (R271 is general knowledge: log 26.) -/
def Obligations.CheckVexProcedure : Prop :=
  ∀ (f : Feature) (s : State),
    checkVEX f s =
      if s.cr4.getLsbD 18 = false then .raise .ud
      else if (s.xcr0.getLsbD 1 && s.xcr0.getLsbD 2) = false then .raise .ud
      else if s.has f = false then .raise .ud
      else if s.cr0.getLsbD 3 = true then .raise .nm
      else .ok ()

/-- O41. CheckMMX(f) raises #UD if CR0.EM (bit 2) = 1 or if CPUID.f = 0, else #NM if CR0.TS (bit 3) = 1, else #MF if
an x87 exception is pending, else lets pass; CR4.OSFXSR is not consulted. (R272 is general knowledge: log 26.) -/
def Obligations.CheckMmxProcedure : Prop :=
  ∀ (f : Feature) (s : State),
    checkMMX f s =
      if s.cr0.getLsbD 2 = true then .raise .ud
      else if s.has f = false then .raise .ud
      else if s.cr0.getLsbD 3 = true then .raise .nm
      else if s.fpend = true then .raise .mf
      else .ok ()

/-- O42. CheckMOVNTI raises #UD exactly if CPUID.SSE2 = 0, whatever the control registers; CheckMOVDQ2Q raises #UD
if CR0.EM (bit 2) = 1, CR4.OSFXSR (bit 9) = 0 or CPUID.SSE2 = 0, else #NM if CR0.TS (bit 3) = 1, else #MF if an x87
exception is pending. (R273 and R274 are general knowledge but for the #MF: log 26.) -/
def Obligations.CheckMovntiAndMovdq2qProcedures : Prop :=
  (∀ s : State, checkMOVNTI s = if s.has .sse2 = false then .raise .ud else .ok ()) ∧
    ∀ s : State,
      checkMOVDQ2Q s =
        if s.cr0.getLsbD 2 = true then .raise .ud
        else if s.cr4.getLsbD 9 = false then .raise .ud
        else if s.has .sse2 = false then .raise .ud
        else if s.cr0.getLsbD 3 = true then .raise .nm
        else if s.fpend = true then .raise .mf
        else .ok ()

/-- O43. For each of the 64 rows, whatever its operands: if the check procedure of the row (SSE, VEX, MMX, MOVNTI or
MOVDQ2Q, with the CPUID flag of the table) raises an exception, the instruction's outcome is that fault, before any
check of a memory operand. -/
def Obligations.EveryRowRunsItsCheckProcedure : Prop :=
  ∀ (i : Instr) (s : State) (e : Exn), i.gate.check s = .raise e → exec i s = .fault (exnFault e s.rip)

/-- O44. For each of the 64 rows, whatever its operands and the rest of the state: if the CPUID flag of the row (for
VEX rows AVX, for VMOVNTDQA ymm AVX2) is 0, executing it is #UD. (That it is #UD is general knowledge, R122: log
26.) -/
def Obligations.MissingFeatureRaisesUd : Prop :=
  (∀ (i : Instr) (s : State), s.has i.gate.feature = false → exec i s = .fault (.ud s.rip)) ∧
    ∀ i : Instr, (∃ f, i.gate = .vex f) → (i.gate.feature = .avx2 ∧ ∃ e, i = .vmovntdqaY e) ∨ i.gate.feature = .avx

/-- O45. Vectors are 6, 7, 12, 13, 14, 16, 17 for #UD, #NM, #SS, #GP, #PF, #MF, #AC. Whatever the state, if a step
ends in a fault, the record holds the unchanged RIP; the error code of #SS, #GP and #AC is 0 and #UD, #NM, #MF have
none; the error code and the faulting address of #PF are what the oracle answers for some byte. -/
def Obligations.FaultRecord : Prop :=
  (∀ s : State,
      (raise .ud s = .fault (.ud s.rip) ∧ faultVector (.ud s.rip) = 6 ∧ faultErrorCode (.ud s.rip) = none) ∧
      (raise .nm s = .fault (.nm s.rip) ∧ faultVector (.nm s.rip) = 7 ∧ faultErrorCode (.nm s.rip) = none) ∧
      (raise .ss s = .fault (.ss 0 s.rip) ∧ faultVector (.ss 0 s.rip) = 12) ∧
      (raise .gp s = .fault (.gp 0 s.rip) ∧ faultVector (.gp 0 s.rip) = 13) ∧
      (∀ c a, raise (.pf c a) s = .fault (.pf c s.rip a) ∧ faultVector (.pf c s.rip a) = 14) ∧
      (raise .mf s = .fault (.mf s.rip) ∧ faultVector (.mf s.rip) = 16 ∧ faultErrorCode (.mf s.rip) = none) ∧
      (raise .ac s = .fault (.ac 0 s.rip) ∧ faultVector (.ac 0 s.rip) = 17)) ∧
    ∀ (s : State) (f : Fault), step s = .fault f →
      f.rip = s.rip ∧
        (faultVector f ≠ 14 → faultErrorCode f = none ∨ faultErrorCode f = some 0) ∧
        ∀ c ip a, f = .pf c ip a → ∃ kind b, s.accessByte kind b = .pf c a

/-- O46. For each of the 64 rows: executing it raises only #UD and #NM (the MOVNTI rows not #NM; the MMX-operand
rows and MOVDQ2Q also #MF) and, with a memory operand, #SS, #GP, #PF and #AC, the aligned moves never #AC. -/
def Obligations.ExceptionsOfEachRow : Prop :=
  ∀ (i : Instr) (s : State) (f : Fault), exec i s = .fault f →
    faultVector f ∈ i.gate.vectors ∨
      ∃ a, i.access = some a ∧
        (faultVector f ∈ [12, 13, 14] ∨ (faultVector f = 17 ∧ ∀ n, a.align ≠ .required n))

/-- O47. For every state whose memory is in its canonical form (addresses strictly rising, below 2^64, no entry
equal to an unlisted byte) and whose RIP is below 2^32 in Mode32, reachable or not: if the step answers a next
state, that state is such too. -/
def Obligations.EveryStepKeepsInvariant : Prop :=
  ∀ s t : State, s.Inv → step s = .next t → t.Inv

/-- O48. State.reset, the launch state of log 1, and State.powerUp, R44's table as log 20 reads it, have memory in
its canonical form (nothing listed: log 2, R44 gives memory no contents) and RIP below 2^32. -/
def Obligations.ResetHasInvariant : Prop :=
  State.reset.Inv ∧ State.powerUp.Inv

/-- O49. For every state and every assignment of bytes to addresses: if the program text reads so, where the fetch
reads it, before a step that answers a next state, it reads so after it, at the same addresses. (That a location
reached by several addresses counts as text is the model's reading, log 22.) -/
def Obligations.EveryStepKeepsProgramText : Prop :=
  ∀ (s t : State) (text : QWord → Byte),
    (∀ a, s.inText a = true → s.mem.read (s.fetchLoc a) = text a) → step s = .next t →
      (∀ a, t.inText a = true → t.mem.read (t.fetchLoc a) = text a) ∧ ∀ a, t.inText a = s.inText a

/-- O50. Whatever the state, if the step answers a next state, RFLAGS, CR0, CR4, XCR0, CPL, FPEND, the breakpoints,
the extent of the program text and the whole configuration (mode, CPUID flags, segments, oracle, memory types) are
as before. -/
def Obligations.NoStepChangesSystemState : Prop :=
  ∀ s t : State, step s = .next t → SameSystem s t

/-- O51. For each of the 64 rows, whatever the state: if executing it answers a next state, RIP is the old RIP plus
the number of bytes of the encoding, modulo 2^64 in Mode64; in Mode32 the sum is taken on 32 bits, modulo 2^32.
(R108 is general knowledge, log 26; the wrap at 2^64 is the model's, log 23, where R22 models none.) -/
def Obligations.CompletionAdvancesRip : Prop :=
  ∀ (i : Instr) (s t : State), exec i s = .next t →
    (s.cfg.mode = .mode64 → t.rip = s.rip + BitVec.ofNat 64 (encode i).length) ∧
      (s.cfg.mode = .mode32 → t.rip.toNat = (s.rip.toNat + (encode i).length) % 2 ^ 32)

/-- O52. Whatever the state, if executing an instruction answers a next state: the system state is unchanged; no
vector, general-purpose or x87 data register changes but the one that is the row's destination (ModRM:reg, or
ModRM:r/m for the register forms of 7F and D6; a general-purpose register in MOVMSKPD and MOVMSKPS, an MMX register
in MOVDQ2Q and MOVQ mm); TOP and FTW change only in the rows with an MMX operand; memory changes only where the
destination is a memory operand, and there only at the operand's locations. -/
def Obligations.EachRowTouchesOnlyItsState : Prop :=
  (∀ (i : Instr) (s t : State), exec i s = .next t →
    SameSystem s t ∧ (∀ n, i.dest ≠ .vector n → t.ymmAt n = s.ymmAt n) ∧
    (∀ n, i.dest ≠ .gpr n → t.gprAt n = s.gprAt n) ∧
    (∀ n : MmxNum, i.dest ≠ .mmx n → t.x87.get n.toFin = s.x87.get n.toFin) ∧
    ((∀ f, i.gate ≠ .mmx f) → i.gate ≠ .movdq2q → t.top = s.top ∧ t.ftw = s.ftw) ∧
    (i.dest ≠ .memory → t.mem = s.mem) ∧
    (∀ a, i.access = some a →
      ∀ locs, s.Located a.kind (byteAddrs s.cfg.mode (s.linear a.ref) a.size) locs →
        ∀ loc, loc ∉ locs → t.mem.read loc = s.mem.read loc)) ∧
  (∀ i : Instr, i.dest = .memory ↔ ∃ a, i.access = some a ∧ a.kind = .write) ∧
  ∀ (e : Legacy RegField) (f : Vex RegField),
    (Instr.movdqaStore (e.map RM.reg)).dest = .vector e.rmNum ∧
    (Instr.movdquStore (e.map RM.reg)).dest = .vector e.rmNum ∧
    (Instr.movqXmmStore (e.map RM.reg)).dest = .vector e.rmNum ∧
    (Instr.movqMmStore (e.map RM.reg)).dest = .mmx e.rm ∧
    (Instr.vmovdqaXStore (f.map RM.reg)).dest = .vector f.rmNum ∧
    (Instr.vmovdqaYStore (f.map RM.reg)).dest = .vector f.rmNum ∧
    (Instr.vmovdquXStore (f.map RM.reg)).dest = .vector f.rmNum ∧
    (Instr.vmovdquYStore (f.map RM.reg)).dest = .vector f.rmNum ∧
    (Instr.vmovqStore (f.map RM.reg)).dest = .vector f.rmNum

/-- O53. In a state in which the model runs and the run has not ended, if the 15 bytes at RIP decode to an
instruction, the step is the execution of that instruction at that state, which itself moves RIP. -/
def Obligations.StepRunsDecodedInstruction : Prop :=
  ∀ (s : State) (i : Instr), s.Runs → s.atEnd = false → decode s.cfg.mode s.fetchBytes = .instr i →
    step s = exec i s

/-- O54. In a state in which the model runs and the run has not ended, if the bytes at RIP begin with the encoding
of an instruction that is well formed in the mode, the step is the execution of that instruction at that state. -/
def Obligations.StepRunsEncodedInstruction : Prop :=
  ∀ (s : State) (i : Instr) (rest : List Byte), s.Runs → s.atEnd = false → i.wf s.cfg.mode = true →
    s.fetchBytes = encode i ++ rest → step s = exec i s

/-- O55. At the end of a run the step leaves the state as it is (log 7). A reserved encoding is #UD, an instruction
longer than 15 bytes #GP(0), bytes outside the model refused. Real-address mode (CR0 bit 0 clear), and with
protection on virtual-8086 mode (RFLAGS bit 17, log 10), and TF or a breakpoint (log 10), are refused whatever the
bytes; so the state after power-up is refused. -/
def Obligations.StepsThatExecuteNothing : Prop :=
  (∀ s : State, s.Runs → s.atEnd = true → step s = .next s) ∧
  (∀ s : State, s.Runs → s.atEnd = false →
    (∀ c, decode s.cfg.mode s.fetchBytes = .ud c → step s = .fault (.ud s.rip)) ∧
    (decode s.cfg.mode s.fetchBytes = .outOfBytes → step s = .fault (.gp 0 s.rip)) ∧
    (decode s.cfg.mode s.fetchBytes = .refused .outsideTable → step s = .refused .outsideTable) ∧
    (decode s.cfg.mode s.fetchBytes = .refused .prefixSet → step s = .refused .prefixSet) ∧
    (decode s.cfg.mode s.fetchBytes = .refused .vexMode32 → step s = .refused .vexMode32)) ∧
  (∀ s : State, s.cr0.getLsbD 0 = false → step s = .refused .realAddressMode) ∧
  (∀ s : State, s.cr0.getLsbD 0 = true → s.rflags.getLsbD 17 = true → step s = .refused .virtual8086) ∧
  (∀ s : State, s.cr0.getLsbD 0 = true → s.rflags.getLsbD 17 = false →
    (s.rflags.getLsbD 8 = true ∨ s.breakpoints = true) → step s = .refused .debugEnabled) ∧
  step State.powerUp = .refused .realAddressMode

/-- O56. For each of the 64 rows: the outcome does not depend on the memory types; and with CR0.AM or RFLAGS.AC 0
and an oracle that does not look at CPL, it does not depend on CPL: the next state differs in the field changed
beforehand only, and a fault or refusal not at all. -/
def Obligations.PrivilegeAndMemoryTypeDoNotMatter : Prop :=
  (∀ (i : Instr) (s : State) (g : List MemTypeRegion),
      exec i { s with cfg := { s.cfg with memTypes := g } } =
        mapNext (fun t => { t with cfg := { t.cfg with memTypes := g } }) (exec i s)) ∧
    ∀ (i : Instr) (s : State) (c : Fin 4), (s.am && s.ac) = false → (∀ rule ∈ s.cfg.access, rule.cpl = none) →
      exec i { s with cpl := c } = mapNext (fun t => { t with cpl := c }) (exec i s)

/-- O57. State.reset (the launch state, a choice of the model: log 1) has CR0.PE = 1, EM = 0, TS = 0, CR4.OSFXSR = 1
and, AVX being present, CR4.OSXSAVE = 1 and XCR0[2:1] = 11b. In every state with that premise, each check procedure
lets pass when the CPUID flag is 1 (VEX rows: AVX is 1 as well) and, for the procedures that ask, no x87 exception
is pending. (The premise is decision D3 over general knowledge: log 26.) -/
def Obligations.LaunchPremise : Prop :=
  State.reset.Enabled ∧
    ∀ (s : State) (f : Feature), s.Enabled → s.has f = true →
      checkSSE f s = .ok () ∧ (s.has .avx = true → checkVEX f s = .ok ()) ∧
        (s.fpend = false → checkMMX f s = .ok ()) ∧ (s.has .sse2 = true → checkMOVNTI s = .ok ()) ∧
        (s.has .sse2 = true → s.fpend = false → checkMOVDQ2Q s = .ok ())

/-- O58. After power-up: vector and x87 registers 0, FTW 5555H, TOP 0, FPEND false, every general-purpose register
but EDX 0 (EAX: the self test passed; EDX the processor signature, a free value), RIP FFF0H with CS base FFFF0000H,
RFLAGS 2, CR0 60000010H, CR4 0, XCR0 1, CPL 0. The launch state (log 1, a choice of the model) has the same
registers with EDX 0, and CR0.PE, CR4.OSFXSR, CR4.OSXSAVE and XCR0[2:1] set; no program is loaded, no breakpoint
enabled, memory lists nothing. -/
def Obligations.PowerUpAndLaunchValues : Prop :=
  (∀ n, State.powerUp.ymmAt n = 0) ∧ (∀ n : MmxNum, State.powerUp.x87.get n.toFin = 0) ∧
  State.powerUp.ftw = 0x5555 ∧ State.powerUp.top = 0 ∧ State.powerUp.fpend = false ∧
  (∀ n, n ≠ 2 → State.powerUp.gprAt n = 0) ∧
  State.powerUp.gprAt 2 = Config.processorSignature.setWidth 64 ∧ State.powerUp.rip = 0xFFF0 ∧
  State.powerUp.cfg.seg.cs.base = 0xFFFF0000 ∧ State.powerUp.rflags = 2 ∧ State.powerUp.cr0 = 0x60000010 ∧
  State.powerUp.cr4 = 0 ∧ State.powerUp.xcr0 = 1 ∧ State.powerUp.cpl = 0 ∧
  State.reset =
    { State.powerUp with
      gpr := State.powerUp.gpr.set 2 0
      cr0 := State.powerUp.cr0 ||| 1
      cr4 := 1 <<< 9 ||| 1 <<< 18
      xcr0 := State.powerUp.xcr0 ||| 6
      cfg := Config.launch } ∧
  State.reset.mem = [] ∧ State.reset.program = none ∧ State.reset.breakpoints = false

/-- O59. Whatever the instruction and the state, if it completes: with a vector register as destination, a legacy
row leaves bits 255:128 of it unchanged, and the half moves the half of bits 127:0 that their Operation does not
name; a VEX.128 row leaves bits 255:128 zero; and a VEX row writes all VLMAX bits, so that what they held before,
where the destination is no source operand, has no bearing on their new value. With memory as destination no vector
register changes. (VLMAX is 256 for every VEX row but VMOVNTDQA ymm with AVX2 and without AVX, which writes the 128
bits that the register then has: the model's choice, log 14, where R25 (c) says 256.) -/
def Obligations.UpperBitsPolicy : Prop :=
  ∀ (i : Instr) (s t : State), exec i s = .next t →
    (∀ d, i.dest = .vector d →
      ((∃ f, i.gate = .sse f) → t.upperAt d = s.upperAt d) ∧
      ((∃ e, i = .movhlps e) ∨ (∃ e, i = .movlpdLoad e) ∨ (∃ e, i = .movlpsLoad e) → t.highAt d = s.highAt d) ∧
      ((∃ e, i = .movlhps e) ∨ (∃ e, i = .movhpdLoad e) ∨ (∃ e, i = .movhpsLoad e) → t.lowAt d = s.lowAt d) ∧
      ((∃ f, i.gate = .vex f) → i.is256 = false → t.upperAt d = 0) ∧
      ((∃ f, i.gate = .vex f) → d ∉ i.vectorSources → ∀ (v : YWord) (u : State),
        exec i (s.setYmm d v) = .next u → u.ymmAt d = t.ymmAt d)) ∧
    (i.dest = .memory → t.ymm = s.ymm)

/-- O60. 0F 12 and 0F 16, VEX.NDS.128.0F 12 and 16, and VEX.128.F3.0F 7E, with every accepted prefix set, REX or VEX
form, register number and addressing form, in both modes: with mod = 11b they decode to MOVHLPS, MOVLHPS, VMOVHLPS,
VMOVLHPS and VMOVQ xmm1, xmm2; otherwise to MOVLPS, MOVHPS, VMOVLPS, VMOVHPS (loads) and VMOVQ xmm1, m64. -/
def Obligations.SharedOpcodesAreToldApartByMod : Prop :=
  ∀ (m : Mode) (rest : List Byte),
    (∀ e : Legacy RegField, wfLegacy m .none (e.map RM.reg) = true →
      decode m (legacyBytes .m0F 0x12 (e.map RM.reg) ++ rest) = .instr (.movhlps e) ∧
      decode m (legacyBytes .m0F 0x16 (e.map RM.reg) ++ rest) = .instr (.movlhps e)) ∧
    (∀ e : Legacy MemOp, wfLegacy m .none (e.map RM.mem) = true →
      decode m (legacyBytes .m0F 0x12 (e.map RM.mem) ++ rest) = .instr (.movlpsLoad e) ∧
      decode m (legacyBytes .m0F 0x16 (e.map RM.mem) ++ rest) = .instr (.movhpsLoad e)) ∧
    (∀ (v : RegNum) (e : Vex RegField), wfVex m .m0F v (e.map RM.reg) = true →
      decode m (vexBytes .none .m0F false v 0x12 (e.map RM.reg) ++ rest) = .instr (.vmovhlps v e) ∧
      decode m (vexBytes .none .m0F false v 0x16 (e.map RM.reg) ++ rest) = .instr (.vmovlhps v e) ∧
      (v = 0 → decode m (vexBytes .pF3 .m0F false v 0x7E (e.map RM.reg) ++ rest) = .instr (.vmovqReg e))) ∧
    ∀ (v : RegNum) (e : Vex MemOp), wfVex m .m0F v (e.map RM.mem) = true →
      decode m (vexBytes .none .m0F false v 0x12 (e.map RM.mem) ++ rest) = .instr (.vmovlpsLoad v e) ∧
      decode m (vexBytes .none .m0F false v 0x16 (e.map RM.mem) ++ rest) = .instr (.vmovhpsLoad v e) ∧
      (v = 0 → decode m (vexBytes .pF3 .m0F false v 0x7E (e.map RM.mem) ++ rest) = .instr (.vmovqLoad e))
end

