-- ==== Sys2Proof/Laws/Decode.lean ====
section
/-! SUPPORT. How many bytes an encoding has (R80, R89). -/

namespace Sys2Proof

/-- A legacy encoding has as many bytes as its length says. -/
@[simp] theorem length_legacyBytes (map : OpMap) (opc : Byte) (e : Legacy RM) :
    (legacyBytes map opc e).length = legacyLen map e := by
  simp [legacyBytes, legacyLen]
  omega

/-- A VEX encoding has as many bytes as its length says. -/
@[simp] theorem length_vexBytes (pp : SimdPrefix) (map : OpMap) (l : Bool) (v : RegNum) (opc : Byte) (e : Vex RM) :
    (vexBytes pp map l v opc e).length = vexLen e := by
  unfold vexBytes vexLen vexPrefixBytes
  cases e.form <;> simp <;> omega

end Sys2Proof
end

