-- ==== Sys2Proof/Laws/Memory.lean ====
section
/-! SUPPORT. Memory keeps its canonical form; what reads after a write; bytes and values. -/

namespace Sys2Proof.Machine

/-! ### One byte -/

theorem Memory.wf_nil : Memory.wf [] := ⟨List.Pairwise.nil, by simp⟩

/-- What a write leaves in the list: entries that were there, or the one written. -/
theorem Memory.mem_write {m : Memory} {a : Nat} {v : Byte} {c : Host.Cell} (h : c ∈ m.write a v) :
    c ∈ m ∨ (c = (a, v) ∧ v ≠ Memory.unlisted) := by
  induction m with
  | nil =>
    simp only [Memory.write] at h
    split at h <;> simp_all
  | cons d rest ih =>
    simp only [Memory.write] at h
    split at h
    · split at h
      · exact .inl h
      · rcases List.mem_cons.1 h with h | h
        · exact .inr ⟨h, by assumption⟩
        · exact .inl h
    · split at h
      · split at h
        · simp_all
        · simp only [List.mem_cons] at h ⊢
          tauto
      · simp only [List.mem_cons] at h ⊢
        rcases h with h | h
        · exact .inl (.inl h)
        · rcases ih h with h | h
          · exact .inl (.inr h)
          · exact .inr h

/-- A write keeps the canonical form. -/
theorem Memory.wf_write {m : Memory} {a : Nat} (v : Byte) (h : m.wf) (ha : a < 2 ^ 64) : (m.write a v).wf := by
  refine ⟨?_, fun c hc => ?_⟩
  · have hp := h.1
    clear h
    induction m with
    | nil =>
      simp only [Memory.write]
      split <;> simp
    | cons d rest ih =>
      have hd := List.pairwise_cons.1 hp
      simp only [Memory.write]
      split
      · rename_i hlt
        split
        · exact hp
        · refine List.pairwise_cons.2 ⟨fun c hc => ?_, hp⟩
          rcases List.mem_cons.1 hc with rfl | hc
          · exact hlt
          · exact lt_trans hlt (hd.1 c hc)
      · split
        · rename_i heq
          split
          · exact hd.2
          · exact List.pairwise_cons.2 ⟨fun c hc => heq ▸ hd.1 c hc, hd.2⟩
        · rename_i hlt hne
          refine List.pairwise_cons.2 ⟨fun c hc => ?_, ih hd.2⟩
          rcases Memory.mem_write hc with hc | ⟨rfl, -⟩
          · exact hd.1 c hc
          · show d.1 < a
            omega
  · rcases Memory.mem_write hc with hc | ⟨rfl, hv⟩
    · exact h.2 c hc
    · exact ⟨ha, hv⟩

/-- A write leaves every other location alone. -/
theorem Memory.read_write_ne (m : Memory) {a b : Nat} (v : Byte) (h : b ≠ a) : (m.write a v).read b = m.read b := by
  induction m with
  | nil =>
    simp only [Memory.write]
    split
    · rfl
    · simp [Memory.read, Ne.symm h]
  | cons d rest ih =>
    simp only [Memory.write]
    split
    · split
      · rfl
      · simp [Memory.read, Ne.symm h]
    · split
      · rename_i heq
        have hb : ¬ d.1 = b := fun hd => h (hd.symm.trans heq.symm)
        split
        · simp [Memory.read, hb]
        · simp [Memory.read, hb, Ne.symm h]
      · simp only [Memory.read, ih]

/-- A location below every entry of a sorted memory reads as unlisted. -/
theorem Memory.read_of_lt {m : Memory} {a : Nat} (h : ∀ c ∈ m, a < c.1) : m.read a = Memory.unlisted := by
  induction m with
  | nil => rfl
  | cons d rest ih =>
    have hd := h d (by simp)
    rw [Memory.read, if_neg (by omega)]
    exact ih fun c hc => h c (by simp [hc])

/-- A read after a write gives the byte written. -/
theorem Memory.read_write_self {m : Memory} (a : Nat) (v : Byte) (h : m.wf) : (m.write a v).read a = v := by
  have hp := h.1
  clear h
  induction m with
  | nil =>
    simp only [Memory.write]
    split
    · simp_all [Memory.read]
    · simp [Memory.read]
  | cons d rest ih =>
    have hd := List.pairwise_cons.1 hp
    simp only [Memory.write]
    split
    · rename_i hlt
      split
      · rename_i hv
        rw [hv]
        refine Memory.read_of_lt fun c hc => ?_
        rcases List.mem_cons.1 hc with rfl | hc
        · exact hlt
        · exact lt_trans hlt (hd.1 c hc)
      · simp [Memory.read]
    · split
      · rename_i heq
        split
        · rename_i hv
          rw [hv]
          exact Memory.read_of_lt fun c hc => heq ▸ hd.1 c hc
        · simp [Memory.read]
      · rename_i hne
        rw [Memory.read, if_neg (Ne.symm hne)]
        exact ih hd.2

/-! ### Several bytes -/

/-- Several writes keep the canonical form. -/
theorem Memory.wf_writeAll {m : Memory} (locs : List Nat) (bs : List Byte) (h : m.wf)
    (hl : ∀ a ∈ locs, a < 2 ^ 64) : (m.writeAll locs bs).wf := by
  induction locs generalizing m bs with
  | nil => exact h
  | cons a locs ih =>
    cases bs with
    | nil => exact h
    | cons b bs =>
      exact ih bs (Memory.wf_write b h (hl a (by simp))) fun c hc => hl c (by simp [hc])

/-- Several writes leave every other location alone. -/
theorem Memory.read_writeAll_of_not_mem (m : Memory) {locs : List Nat} (bs : List Byte) {a : Nat} (h : a ∉ locs) :
    (m.writeAll locs bs).read a = m.read a := by
  induction locs generalizing m bs with
  | nil => rfl
  | cons c locs ih =>
    cases bs with
    | nil => rfl
    | cons b bs =>
      simp only [List.mem_cons, not_or] at h
      rw [Memory.writeAll, ih _ _ h.2, Memory.read_write_ne _ _ h.1]

/-- Bytes written at distinct locations are read back. -/
theorem Memory.readAll_writeAll {m : Memory} {locs : List Nat} {bs : List Byte} (h : m.wf) (hn : locs.Nodup)
    (hl : ∀ a ∈ locs, a < 2 ^ 64) (hb : bs.length = locs.length) : (m.writeAll locs bs).readAll locs = bs := by
  induction locs generalizing m bs with
  | nil =>
    cases bs with
    | nil => rfl
    | cons b bs => simp at hb
  | cons c locs ih =>
    cases bs with
    | nil => simp at hb
    | cons b bs =>
      have hn' := List.nodup_cons.1 hn
      have hw := Memory.wf_write b h (hl c (by simp))
      have ih' := ih (m := m.write c b) (bs := bs) hw hn'.2 (fun a ha => hl a (by simp [ha])) (by simpa using hb)
      simp only [Memory.readAll, List.map_cons, Memory.writeAll] at ih' ⊢
      rw [Memory.read_writeAll_of_not_mem _ _ hn'.1, Memory.read_write_self c b h, ih']

@[simp] theorem Memory.length_readAll (m : Memory) (locs : List Nat) : (m.readAll locs).length = locs.length := by
  simp [Memory.readAll]

@[simp] theorem length_leBytes {w : Nat} (n : Nat) (v : BitVec w) : (leBytes n v).length = n := by
  simp [leBytes]

/-- Bit i of the number that bytes stand for is bit i mod 8 of byte i / 8 (R51). -/
theorem testBit_leNat (bs : List Byte) (i : Nat) : (leNat bs).testBit i = (bs.getD (i / 8) 0).getLsbD (i % 8) := by
  induction bs generalizing i with
  | nil => simp [leNat]
  | cons b rest ih =>
    rw [leNat, show (256 : Nat) = 2 ^ 8 by norm_num, Nat.add_comm, Nat.testBit_two_pow_mul_add _ b.isLt]
    split
    · rename_i h
      rw [Nat.div_eq_of_lt h, Nat.mod_eq_of_lt h]
      rfl
    · rename_i h
      rw [ih, show i / 8 = (i - 8) / 8 + 1 by omega, show i % 8 = (i - 8) % 8 by omega]
      rfl

/-- Bit i of the value of little-endian bytes. -/
theorem getLsbD_leValue (w : Nat) (bs : List Byte) (i : Nat) :
    (leValue w bs).getLsbD i = (decide (i < w) && (bs.getD (i / 8) 0).getLsbD (i % 8)) := by
  rw [leValue, BitVec.getLsbD_ofNat, testBit_leNat]

end Sys2Proof.Machine
end

