-- ==== Sys2Proof/Laws/State.lean ====
section
/-! SUPPORT. For each update of the state, what every field and every register reads after it. -/

namespace Sys2Proof.Machine

/-! ### State.setGpr -/

@[simp] theorem State.setGpr_rip (s : State) (n : RegNum) (v : QWord) : (s.setGpr n v).rip = s.rip := rfl
@[simp] theorem State.setGpr_ymm (s : State) (n : RegNum) (v : QWord) : (s.setGpr n v).ymm = s.ymm := rfl
@[simp] theorem State.setGpr_x87 (s : State) (n : RegNum) (v : QWord) : (s.setGpr n v).x87 = s.x87 := rfl
@[simp] theorem State.setGpr_top (s : State) (n : RegNum) (v : QWord) : (s.setGpr n v).top = s.top := rfl
@[simp] theorem State.setGpr_ftw (s : State) (n : RegNum) (v : QWord) : (s.setGpr n v).ftw = s.ftw := rfl
@[simp] theorem State.setGpr_fpend (s : State) (n : RegNum) (v : QWord) : (s.setGpr n v).fpend = s.fpend := rfl
@[simp] theorem State.setGpr_rflags (s : State) (n : RegNum) (v : QWord) : (s.setGpr n v).rflags = s.rflags := rfl
@[simp] theorem State.setGpr_cr0 (s : State) (n : RegNum) (v : QWord) : (s.setGpr n v).cr0 = s.cr0 := rfl
@[simp] theorem State.setGpr_cr4 (s : State) (n : RegNum) (v : QWord) : (s.setGpr n v).cr4 = s.cr4 := rfl
@[simp] theorem State.setGpr_xcr0 (s : State) (n : RegNum) (v : QWord) : (s.setGpr n v).xcr0 = s.xcr0 := rfl
@[simp] theorem State.setGpr_cpl (s : State) (n : RegNum) (v : QWord) : (s.setGpr n v).cpl = s.cpl := rfl
@[simp] theorem State.setGpr_breakpoints (s : State) (n : RegNum) (v : QWord) : (s.setGpr n v).breakpoints = s.breakpoints := rfl
@[simp] theorem State.setGpr_mem (s : State) (n : RegNum) (v : QWord) : (s.setGpr n v).mem = s.mem := rfl
@[simp] theorem State.setGpr_program (s : State) (n : RegNum) (v : QWord) : (s.setGpr n v).program = s.program := rfl
@[simp] theorem State.setGpr_cfg (s : State) (n : RegNum) (v : QWord) : (s.setGpr n v).cfg = s.cfg := rfl
@[simp] theorem State.setGpr_draws (s : State) (n : RegNum) (v : QWord) : (s.setGpr n v).draws = s.draws := rfl

/-! ### State.setYmm -/

@[simp] theorem State.setYmm_rip (s : State) (n : RegNum) (v : YWord) : (s.setYmm n v).rip = s.rip := rfl
@[simp] theorem State.setYmm_gpr (s : State) (n : RegNum) (v : YWord) : (s.setYmm n v).gpr = s.gpr := rfl
@[simp] theorem State.setYmm_x87 (s : State) (n : RegNum) (v : YWord) : (s.setYmm n v).x87 = s.x87 := rfl
@[simp] theorem State.setYmm_top (s : State) (n : RegNum) (v : YWord) : (s.setYmm n v).top = s.top := rfl
@[simp] theorem State.setYmm_ftw (s : State) (n : RegNum) (v : YWord) : (s.setYmm n v).ftw = s.ftw := rfl
@[simp] theorem State.setYmm_fpend (s : State) (n : RegNum) (v : YWord) : (s.setYmm n v).fpend = s.fpend := rfl
@[simp] theorem State.setYmm_rflags (s : State) (n : RegNum) (v : YWord) : (s.setYmm n v).rflags = s.rflags := rfl
@[simp] theorem State.setYmm_cr0 (s : State) (n : RegNum) (v : YWord) : (s.setYmm n v).cr0 = s.cr0 := rfl
@[simp] theorem State.setYmm_cr4 (s : State) (n : RegNum) (v : YWord) : (s.setYmm n v).cr4 = s.cr4 := rfl
@[simp] theorem State.setYmm_xcr0 (s : State) (n : RegNum) (v : YWord) : (s.setYmm n v).xcr0 = s.xcr0 := rfl
@[simp] theorem State.setYmm_cpl (s : State) (n : RegNum) (v : YWord) : (s.setYmm n v).cpl = s.cpl := rfl
@[simp] theorem State.setYmm_breakpoints (s : State) (n : RegNum) (v : YWord) : (s.setYmm n v).breakpoints = s.breakpoints := rfl
@[simp] theorem State.setYmm_mem (s : State) (n : RegNum) (v : YWord) : (s.setYmm n v).mem = s.mem := rfl
@[simp] theorem State.setYmm_program (s : State) (n : RegNum) (v : YWord) : (s.setYmm n v).program = s.program := rfl
@[simp] theorem State.setYmm_cfg (s : State) (n : RegNum) (v : YWord) : (s.setYmm n v).cfg = s.cfg := rfl
@[simp] theorem State.setYmm_draws (s : State) (n : RegNum) (v : YWord) : (s.setYmm n v).draws = s.draws := rfl

/-! ### State.setXmmKeep -/

@[simp] theorem State.setXmmKeep_rip (s : State) (n : RegNum) (v : DQWord) : (s.setXmmKeep n v).rip = s.rip := rfl
@[simp] theorem State.setXmmKeep_gpr (s : State) (n : RegNum) (v : DQWord) : (s.setXmmKeep n v).gpr = s.gpr := rfl
@[simp] theorem State.setXmmKeep_x87 (s : State) (n : RegNum) (v : DQWord) : (s.setXmmKeep n v).x87 = s.x87 := rfl
@[simp] theorem State.setXmmKeep_top (s : State) (n : RegNum) (v : DQWord) : (s.setXmmKeep n v).top = s.top := rfl
@[simp] theorem State.setXmmKeep_ftw (s : State) (n : RegNum) (v : DQWord) : (s.setXmmKeep n v).ftw = s.ftw := rfl
@[simp] theorem State.setXmmKeep_fpend (s : State) (n : RegNum) (v : DQWord) : (s.setXmmKeep n v).fpend = s.fpend := rfl
@[simp] theorem State.setXmmKeep_rflags (s : State) (n : RegNum) (v : DQWord) : (s.setXmmKeep n v).rflags = s.rflags := rfl
@[simp] theorem State.setXmmKeep_cr0 (s : State) (n : RegNum) (v : DQWord) : (s.setXmmKeep n v).cr0 = s.cr0 := rfl
@[simp] theorem State.setXmmKeep_cr4 (s : State) (n : RegNum) (v : DQWord) : (s.setXmmKeep n v).cr4 = s.cr4 := rfl
@[simp] theorem State.setXmmKeep_xcr0 (s : State) (n : RegNum) (v : DQWord) : (s.setXmmKeep n v).xcr0 = s.xcr0 := rfl
@[simp] theorem State.setXmmKeep_cpl (s : State) (n : RegNum) (v : DQWord) : (s.setXmmKeep n v).cpl = s.cpl := rfl
@[simp] theorem State.setXmmKeep_breakpoints (s : State) (n : RegNum) (v : DQWord) : (s.setXmmKeep n v).breakpoints = s.breakpoints := rfl
@[simp] theorem State.setXmmKeep_mem (s : State) (n : RegNum) (v : DQWord) : (s.setXmmKeep n v).mem = s.mem := rfl
@[simp] theorem State.setXmmKeep_program (s : State) (n : RegNum) (v : DQWord) : (s.setXmmKeep n v).program = s.program := rfl
@[simp] theorem State.setXmmKeep_cfg (s : State) (n : RegNum) (v : DQWord) : (s.setXmmKeep n v).cfg = s.cfg := rfl
@[simp] theorem State.setXmmKeep_draws (s : State) (n : RegNum) (v : DQWord) : (s.setXmmKeep n v).draws = s.draws := rfl

/-! ### State.setXmmZero -/

@[simp] theorem State.setXmmZero_rip (s : State) (n : RegNum) (v : DQWord) : (s.setXmmZero n v).rip = s.rip := rfl
@[simp] theorem State.setXmmZero_gpr (s : State) (n : RegNum) (v : DQWord) : (s.setXmmZero n v).gpr = s.gpr := rfl
@[simp] theorem State.setXmmZero_x87 (s : State) (n : RegNum) (v : DQWord) : (s.setXmmZero n v).x87 = s.x87 := rfl
@[simp] theorem State.setXmmZero_top (s : State) (n : RegNum) (v : DQWord) : (s.setXmmZero n v).top = s.top := rfl
@[simp] theorem State.setXmmZero_ftw (s : State) (n : RegNum) (v : DQWord) : (s.setXmmZero n v).ftw = s.ftw := rfl
@[simp] theorem State.setXmmZero_fpend (s : State) (n : RegNum) (v : DQWord) : (s.setXmmZero n v).fpend = s.fpend := rfl
@[simp] theorem State.setXmmZero_rflags (s : State) (n : RegNum) (v : DQWord) : (s.setXmmZero n v).rflags = s.rflags := rfl
@[simp] theorem State.setXmmZero_cr0 (s : State) (n : RegNum) (v : DQWord) : (s.setXmmZero n v).cr0 = s.cr0 := rfl
@[simp] theorem State.setXmmZero_cr4 (s : State) (n : RegNum) (v : DQWord) : (s.setXmmZero n v).cr4 = s.cr4 := rfl
@[simp] theorem State.setXmmZero_xcr0 (s : State) (n : RegNum) (v : DQWord) : (s.setXmmZero n v).xcr0 = s.xcr0 := rfl
@[simp] theorem State.setXmmZero_cpl (s : State) (n : RegNum) (v : DQWord) : (s.setXmmZero n v).cpl = s.cpl := rfl
@[simp] theorem State.setXmmZero_breakpoints (s : State) (n : RegNum) (v : DQWord) : (s.setXmmZero n v).breakpoints = s.breakpoints := rfl
@[simp] theorem State.setXmmZero_mem (s : State) (n : RegNum) (v : DQWord) : (s.setXmmZero n v).mem = s.mem := rfl
@[simp] theorem State.setXmmZero_program (s : State) (n : RegNum) (v : DQWord) : (s.setXmmZero n v).program = s.program := rfl
@[simp] theorem State.setXmmZero_cfg (s : State) (n : RegNum) (v : DQWord) : (s.setXmmZero n v).cfg = s.cfg := rfl
@[simp] theorem State.setXmmZero_draws (s : State) (n : RegNum) (v : DQWord) : (s.setXmmZero n v).draws = s.draws := rfl

/-! ### State.setMm -/

@[simp] theorem State.setMm_rip (s : State) (n : MmxNum) (v : QWord) : (s.setMm n v).rip = s.rip := rfl
@[simp] theorem State.setMm_gpr (s : State) (n : MmxNum) (v : QWord) : (s.setMm n v).gpr = s.gpr := rfl
@[simp] theorem State.setMm_ymm (s : State) (n : MmxNum) (v : QWord) : (s.setMm n v).ymm = s.ymm := rfl
@[simp] theorem State.setMm_top (s : State) (n : MmxNum) (v : QWord) : (s.setMm n v).top = s.top := rfl
@[simp] theorem State.setMm_ftw (s : State) (n : MmxNum) (v : QWord) : (s.setMm n v).ftw = s.ftw := rfl
@[simp] theorem State.setMm_fpend (s : State) (n : MmxNum) (v : QWord) : (s.setMm n v).fpend = s.fpend := rfl
@[simp] theorem State.setMm_rflags (s : State) (n : MmxNum) (v : QWord) : (s.setMm n v).rflags = s.rflags := rfl
@[simp] theorem State.setMm_cr0 (s : State) (n : MmxNum) (v : QWord) : (s.setMm n v).cr0 = s.cr0 := rfl
@[simp] theorem State.setMm_cr4 (s : State) (n : MmxNum) (v : QWord) : (s.setMm n v).cr4 = s.cr4 := rfl
@[simp] theorem State.setMm_xcr0 (s : State) (n : MmxNum) (v : QWord) : (s.setMm n v).xcr0 = s.xcr0 := rfl
@[simp] theorem State.setMm_cpl (s : State) (n : MmxNum) (v : QWord) : (s.setMm n v).cpl = s.cpl := rfl
@[simp] theorem State.setMm_breakpoints (s : State) (n : MmxNum) (v : QWord) : (s.setMm n v).breakpoints = s.breakpoints := rfl
@[simp] theorem State.setMm_mem (s : State) (n : MmxNum) (v : QWord) : (s.setMm n v).mem = s.mem := rfl
@[simp] theorem State.setMm_program (s : State) (n : MmxNum) (v : QWord) : (s.setMm n v).program = s.program := rfl
@[simp] theorem State.setMm_cfg (s : State) (n : MmxNum) (v : QWord) : (s.setMm n v).cfg = s.cfg := rfl
@[simp] theorem State.setMm_draws (s : State) (n : MmxNum) (v : QWord) : (s.setMm n v).draws = s.draws := rfl

/-! ### State.mmxTransition -/

@[simp] theorem State.mmxTransition_rip (s : State) : (s.mmxTransition).rip = s.rip := rfl
@[simp] theorem State.mmxTransition_gpr (s : State) : (s.mmxTransition).gpr = s.gpr := rfl
@[simp] theorem State.mmxTransition_ymm (s : State) : (s.mmxTransition).ymm = s.ymm := rfl
@[simp] theorem State.mmxTransition_x87 (s : State) : (s.mmxTransition).x87 = s.x87 := rfl
@[simp] theorem State.mmxTransition_fpend (s : State) : (s.mmxTransition).fpend = s.fpend := rfl
@[simp] theorem State.mmxTransition_rflags (s : State) : (s.mmxTransition).rflags = s.rflags := rfl
@[simp] theorem State.mmxTransition_cr0 (s : State) : (s.mmxTransition).cr0 = s.cr0 := rfl
@[simp] theorem State.mmxTransition_cr4 (s : State) : (s.mmxTransition).cr4 = s.cr4 := rfl
@[simp] theorem State.mmxTransition_xcr0 (s : State) : (s.mmxTransition).xcr0 = s.xcr0 := rfl
@[simp] theorem State.mmxTransition_cpl (s : State) : (s.mmxTransition).cpl = s.cpl := rfl
@[simp] theorem State.mmxTransition_breakpoints (s : State) : (s.mmxTransition).breakpoints = s.breakpoints := rfl
@[simp] theorem State.mmxTransition_mem (s : State) : (s.mmxTransition).mem = s.mem := rfl
@[simp] theorem State.mmxTransition_program (s : State) : (s.mmxTransition).program = s.program := rfl
@[simp] theorem State.mmxTransition_cfg (s : State) : (s.mmxTransition).cfg = s.cfg := rfl
@[simp] theorem State.mmxTransition_draws (s : State) : (s.mmxTransition).draws = s.draws := rfl

/-! ### State.setGprByMode -/

@[simp] theorem State.setGprByMode_rip (s : State) (n : RegNum) (v : QWord) : (s.setGprByMode n v).rip = s.rip := by
  unfold State.setGprByMode
  split <;> rfl

@[simp] theorem State.setGprByMode_ymm (s : State) (n : RegNum) (v : QWord) : (s.setGprByMode n v).ymm = s.ymm := by
  unfold State.setGprByMode
  split <;> rfl

@[simp] theorem State.setGprByMode_x87 (s : State) (n : RegNum) (v : QWord) : (s.setGprByMode n v).x87 = s.x87 := by
  unfold State.setGprByMode
  split <;> rfl

@[simp] theorem State.setGprByMode_top (s : State) (n : RegNum) (v : QWord) : (s.setGprByMode n v).top = s.top := by
  unfold State.setGprByMode
  split <;> rfl

@[simp] theorem State.setGprByMode_ftw (s : State) (n : RegNum) (v : QWord) : (s.setGprByMode n v).ftw = s.ftw := by
  unfold State.setGprByMode
  split <;> rfl

@[simp] theorem State.setGprByMode_fpend (s : State) (n : RegNum) (v : QWord) : (s.setGprByMode n v).fpend = s.fpend := by
  unfold State.setGprByMode
  split <;> rfl

@[simp] theorem State.setGprByMode_rflags (s : State) (n : RegNum) (v : QWord) : (s.setGprByMode n v).rflags = s.rflags := by
  unfold State.setGprByMode
  split <;> rfl

@[simp] theorem State.setGprByMode_cr0 (s : State) (n : RegNum) (v : QWord) : (s.setGprByMode n v).cr0 = s.cr0 := by
  unfold State.setGprByMode
  split <;> rfl

@[simp] theorem State.setGprByMode_cr4 (s : State) (n : RegNum) (v : QWord) : (s.setGprByMode n v).cr4 = s.cr4 := by
  unfold State.setGprByMode
  split <;> rfl

@[simp] theorem State.setGprByMode_xcr0 (s : State) (n : RegNum) (v : QWord) : (s.setGprByMode n v).xcr0 = s.xcr0 := by
  unfold State.setGprByMode
  split <;> rfl

@[simp] theorem State.setGprByMode_cpl (s : State) (n : RegNum) (v : QWord) : (s.setGprByMode n v).cpl = s.cpl := by
  unfold State.setGprByMode
  split <;> rfl

@[simp] theorem State.setGprByMode_breakpoints (s : State) (n : RegNum) (v : QWord) : (s.setGprByMode n v).breakpoints = s.breakpoints := by
  unfold State.setGprByMode
  split <;> rfl

@[simp] theorem State.setGprByMode_mem (s : State) (n : RegNum) (v : QWord) : (s.setGprByMode n v).mem = s.mem := by
  unfold State.setGprByMode
  split <;> rfl

@[simp] theorem State.setGprByMode_program (s : State) (n : RegNum) (v : QWord) : (s.setGprByMode n v).program = s.program := by
  unfold State.setGprByMode
  split <;> rfl

@[simp] theorem State.setGprByMode_cfg (s : State) (n : RegNum) (v : QWord) : (s.setGprByMode n v).cfg = s.cfg := by
  unfold State.setGprByMode
  split <;> rfl

@[simp] theorem State.setGprByMode_draws (s : State) (n : RegNum) (v : QWord) : (s.setGprByMode n v).draws = s.draws := by
  unfold State.setGprByMode
  split <;> rfl

/-! ### The MMX transition -/

@[simp] theorem State.mmxTransition_top (s : State) : s.mmxTransition.top = 0 := rfl
@[simp] theorem State.mmxTransition_ftw (s : State) : s.mmxTransition.ftw = 0 := rfl
@[simp] theorem State.mmxTransition_mmAt (s : State) (n : MmxNum) : s.mmxTransition.mmAt n = s.mmAt n := rfl

/-! ### Reading a register after a write -/

/-- A written vector of registers, read back. -/
theorem vector_get_set {α : Type} {k : Nat} (v : Vector α k) (i : Nat) (hi : i < k) (x : α) (j : Fin k) :
    (v.set i x hi).get j = if i = j.val then x else v.get j := by
  show (v.set i x hi)[j.val] = if i = j.val then x else v[j.val]
  exact Vector.getElem_set hi j.isLt

/-- The low part of a concatenation. -/
theorem extract_low_append {m n : Nat} (x : BitVec m) (y : BitVec n) : (x ++ y).extractLsb' 0 n = y := by
  apply BitVec.eq_of_getLsbD_eq
  intro i hi
  simp [BitVec.getLsbD_append, hi]

/-- A register file of 2^k registers, read after a write by number. -/
theorem vector_get_set_bitvec {α : Type} {k : Nat} (v : Vector α (2 ^ k)) (n m : BitVec k) (x : α) :
    (v.set n.toNat x n.isLt).get m.toFin = if n = m then x else v.get m.toFin := by
  rw [vector_get_set]
  by_cases h : n = m
  · rw [if_pos h, h]
    exact if_pos rfl
  · rw [if_neg h]
    exact if_neg fun hn => h (BitVec.eq_of_toNat_eq hn)

/-- GPR[m] after GPR[n] is written. -/
theorem State.gprAt_setGpr (s : State) (m n : RegNum) (v : QWord) :
    (s.setGpr n v).gprAt m = if n = m then v else s.gprAt m := by
  exact vector_get_set_bitvec s.gpr n m v

/-- GPR[m] after a write to another register, in either mode. -/
theorem State.gprAt_setGprByMode_ne (s : State) {m n : RegNum} (v : QWord) (h : m ≠ n) :
    (s.setGprByMode n v).gprAt m = s.gprAt m := by
  unfold State.setGprByMode
  split <;> rw [State.gprAt_setGpr, if_neg (Ne.symm h)]

/-- YMM[m] after YMM[n] is written: the register is VLMAX bits wide. -/
theorem State.ymmAt_setYmm (s : State) (m n : RegNum) (v : YWord) :
    (s.setYmm n v).ymmAt m =
      if n = m then (if s.vlmax = 256 then v else (s.ymmAt n).extractLsb' 128 128 ++ v.extractLsb' 0 128)
      else s.ymmAt m := by
  exact vector_get_set_bitvec s.ymm n m _

/-- YMM[m] after the write of a legacy encoding to XMM[n]: bits 255:128 stay (R25 (a)). -/
theorem State.ymmAt_setXmmKeep (s : State) (m n : RegNum) (v : DQWord) :
    (s.setXmmKeep n v).ymmAt m = if n = m then (s.ymmAt n).extractLsb' 128 128 ++ v else s.ymmAt m := by
  have h : ((s.ymmAt n).extractLsb' 128 128 ++ v).extractLsb' 0 128 = v := by
    exact extract_low_append _ _
  unfold State.setXmmKeep
  rw [State.ymmAt_setYmm, h, ite_self]

/-- YMM[m] after the write of a VEX.128 encoding to XMM[n], with 256-bit registers: bits 255:128 are 0
(R25 (b)). -/
theorem State.ymmAt_setXmmZero (s : State) (m n : RegNum) (v : DQWord) (h : s.vlmax = 256) :
    (s.setXmmZero n v).ymmAt m = if n = m then 0#128 ++ v else s.ymmAt m := by
  unfold State.setXmmZero
  rw [State.ymmAt_setYmm, if_pos h]

theorem State.ymmAt_setYmm_ne (s : State) {m n : RegNum} (v : YWord) (h : m ≠ n) :
    (s.setYmm n v).ymmAt m = s.ymmAt m := by
  rw [State.ymmAt_setYmm, if_neg (Ne.symm h)]

theorem State.ymmAt_setXmmZero_ne (s : State) {m n : RegNum} (v : DQWord) (h : m ≠ n) :
    (s.setXmmZero n v).ymmAt m = s.ymmAt m :=
  State.ymmAt_setYmm_ne s _ h

/-- The x87 data register of MM[m] after MM[n] is written: ones above the 64 bits (R27). -/
theorem State.x87_setMm (s : State) (m n : MmxNum) (v : QWord) :
    (s.setMm n v).x87.get m.toFin = if n = m then 0xFFFF#16 ++ v else s.x87.get m.toFin := by
  exact vector_get_set_bitvec s.x87 n m _

/-- MM[m] after MM[n] is written. -/
theorem State.mmAt_setMm (s : State) (m n : MmxNum) (v : QWord) :
    (s.setMm n v).mmAt m = if n = m then v else s.mmAt m := by
  have h : (0xFFFF#16 ++ v).extractLsb' 0 64 = v := by
    exact extract_low_append _ _
  unfold State.mmAt
  rw [State.x87_setMm]
  split
  · exact h
  · rfl

/-- AVX present means 256-bit vector registers (D1). -/
theorem State.vlmax_of_avx {s : State} (h : s.has .avx = true) : s.vlmax = 256 := by
  simp [State.vlmax, h]

end Sys2Proof.Machine
end

