-- ==== Sys2Proof/Laws/Ops.lean ====
section
/-! SUPPORT. For each shared operation, once, everything it can do. -/

namespace Sys2Proof.Machine

/-! ### Checks -/

@[simp] theorem Check.bind_ok_left {α β : Type} (a : α) (f : α → Check β) : (Check.ok a).bind f = f a := rfl
@[simp] theorem Check.bind_raise_left {α β : Type} (e : Exn) (f : α → Check β) :
    (Check.raise e : Check α).bind f = .raise e := rfl
@[simp] theorem Check.bind_refuse_left {α β : Type} (r : Refusal) (f : α → Check β) :
    (Check.refuse r : Check α).bind f = .refuse r := rfl

/-- A sequence of two checks lets pass exactly when both do. -/
theorem Check.bind_eq_ok {α β : Type} {c : Check α} {f : α → Check β} {b : β} :
    c.bind f = .ok b ↔ ∃ a, c = .ok a ∧ f a = .ok b := by
  cases c <;> simp [Check.bind]

/-- A sequence of two checks raises what the first raises, or the second after the first lets pass. -/
theorem Check.bind_eq_raise {α β : Type} {c : Check α} {f : α → Check β} {e : Exn} :
    c.bind f = .raise e ↔ c = .raise e ∨ ∃ a, c = .ok a ∧ f a = .raise e := by
  cases c <;> simp [Check.bind]

/-- A sequence of two checks refuses what the first refuses, or the second after the first lets pass. -/
theorem Check.bind_eq_refuse {α β : Type} {c : Check α} {f : α → Check β} {r : Refusal} :
    c.bind f = .refuse r ↔ c = .refuse r ∨ ∃ a, c = .ok a ∧ f a = .refuse r := by
  cases c <;> simp [Check.bind]

@[simp] theorem failIf_eq_ok {bad : Bool} {e : Exn} {u : Unit} : failIf bad e = .ok u ↔ bad = false := by
  cases bad <;> simp [failIf]
@[simp] theorem failIf_eq_raise {bad : Bool} {e e' : Exn} : failIf bad e = .raise e' ↔ bad = true ∧ e = e' := by
  cases bad <;> simp [failIf]
@[simp] theorem failIf_ne_refuse {bad : Bool} {e : Exn} {r : Refusal} : failIf bad e ≠ .refuse r := by
  cases bad <;> simp [failIf]

/-! ### Completion -/

/-- The next state of an instruction is that of its check, with RIP past the instruction. -/
theorem complete_eq_next {len : Nat} {s t : State} {c : Check State} :
    complete len s c = .next t ↔ ∃ u, c = .ok u ∧ t = { u with rip := s.nextRip len } := by
  cases c <;> simp [complete, raise, eq_comm]

/-- The fault of an instruction is that of its check, recorded at RIP. -/
theorem complete_eq_fault {len : Nat} {s : State} {c : Check State} {f : Fault} :
    complete len s c = .fault f ↔ ∃ e, c = .raise e ∧ f = exnFault e s.rip := by
  cases c <;> simp [complete, raise, eq_comm]

/-- The refusal of an instruction is that of its check. -/
theorem complete_eq_refused {len : Nat} {s : State} {c : Check State} {r : Refusal} :
    complete len s c = .refused r ↔ c = .refuse r := by
  cases c <;> simp [complete, raise]

/-! ### The checks of a memory access -/

/-- The translation lets pass exactly when the oracle answers "ok" for every byte. -/
theorem State.translate_eq_ok {s : State} {kind : AccessKind} {as : List QWord} {locs : List Nat} :
    s.translate kind as = .ok locs ↔ s.Located kind as locs := by
  induction as generalizing locs with
  | nil =>
    cases locs <;> simp [State.translate, State.Located]
  | cons a rest ih =>
    unfold State.Located at ih ⊢
    unfold State.translate
    cases h : s.accessByte kind a with
    | ok phys =>
      cases locs <;> simp [Check.bind_eq_ok, ih, List.forall₂_cons, h, and_comm]
    | _ => cases locs <;> simp [List.forall₂_cons, h]

/-- A location that the oracle answers is a 64-bit one. -/
theorem State.Located.lt {s : State} {kind : AccessKind} {as : List QWord} {locs : List Nat}
    (h : s.Located kind as locs) : ∀ a ∈ locs, a < 2 ^ 64 := by
  induction h with
  | nil => simp
  | cons hd _ ih =>
    obtain ⟨phys, -, rfl⟩ := hd
    intro a ha
    rcases List.mem_cons.1 ha with rfl | ha
    · exact phys.isLt
    · exact ih a ha

/-- A location for every byte address. -/
theorem State.Located.length_eq {s : State} {kind : AccessKind} {as : List QWord} {locs : List Nat}
    (h : s.Located kind as locs) : locs.length = as.length :=
  (List.Forall₂.length_eq h).symm

@[simp] theorem length_byteAddrs (m : Mode) (a : QWord) (n : Nat) : (byteAddrs m a n).length = n := by
  simp [byteAddrs]

/-- When the segment of an operand may be used for an access (R263). -/
theorem State.segmentUsable_iff {s : State} {kind : AccessKind} {r : MemRef} :
    s.segmentUsable kind r = true ↔
      (s.cfg.mode = .mode32 →
        (s.segment (segOf r)).null = false ∧ (kind = .write → (s.segment (segOf r)).writable = true)) := by
  unfold State.segmentUsable
  cases s.cfg.mode <;> cases kind <;> simp

/-- The two faults of a bad address, and when each is raised (R263, R264). -/
theorem State.addressExn_cases (s : State) (kind : AccessKind) (r : MemRef) :
    (s.addressExn kind r = .ss ∧ segOf r = .ss ∧ s.segmentUsable kind r = true) ∨
      (s.addressExn kind r = .gp ∧ (segOf r ≠ .ss ∨ s.segmentUsable kind r = false)) := by
  unfold State.addressExn
  by_cases h : s.segmentUsable kind r = true ∧ segOf r = .ss
  · simp [h]
  · rw [if_neg h]
    cases hu : s.segmentUsable kind r <;> simp_all

/-- The alignment check answers the state, with one draw more where one was taken. -/
theorem alignChecked_eq_ok {al : AlignRule} {la : QWord} {s t : State} :
    alignChecked al la s = .ok t ↔
      (match al with
        | .required _ => t = s
        | .definite n => (s.alignCheck = true → la.toNat % n = 0) ∧ t = s
        | .draw n =>
          if s.alignCheck = true ∧ la.toNat % n ≠ 0 then
            Config.acDraw s.draws = false ∧ t = { s with draws := s.draws + 1 }
          else t = s) := by
  cases al with
  | required n => simp [alignChecked, eq_comm]
  | definite n =>
    simp only [alignChecked]
    split
    · rename_i h
      simp [h.1, h.2]
    · rename_i h
      simp only [Check.ok.injEq, eq_comm (a := t)]
      tauto
  | draw n =>
    simp only [alignChecked]
    split
    · cases Config.acDraw s.draws <;> simp [eq_comm]
    · simp [eq_comm]

/-- What the checks of an access answer when they let pass: the locations of the bytes, and the state with at most
the draw counter advanced. -/
theorem memAccess_eq_ok {kind : AccessKind} {al : AlignRule} {n : Nat} {r : MemRef} {s t : State} {locs : List Nat} :
    memAccess kind al n r s = .ok (t, locs) ↔
      s.passesSegmentEnd r n = false ∧ s.addressForm kind r n = true ∧ alignRequired al (s.linear r) = .ok () ∧
        s.Located kind (byteAddrs s.cfg.mode (s.linear r) n) locs ∧ alignChecked al (s.linear r) s = .ok t ∧
          (kind = .write → s.overlapsText (byteAddrs s.cfg.mode (s.linear r) n) locs = false) := by
  have ht : s.textCheck kind (byteAddrs s.cfg.mode (s.linear r) n) locs = .ok () ↔
      (kind = .write → s.overlapsText (byteAddrs s.cfg.mode (s.linear r) n) locs = false) := by
    cases kind
    · simp [State.textCheck]
    · cases h : s.overlapsText (byteAddrs s.cfg.mode (s.linear r) n) locs <;> simp [State.textCheck, h]
  unfold memAccess
  split
  · rename_i h
    simp [h]
  · rename_i h
    simp only [Check.bind_eq_ok, failIf_eq_ok, State.translate_eq_ok, Bool.not_eq_true, Bool.not_eq_false',
      Check.ok.injEq, Prod.mk.injEq] at h ⊢
    constructor
    · rintro ⟨_, h1, _, h2, l, h3, u, h4, _, h5, rfl, rfl⟩
      exact ⟨h, h1, h2, h3, h4, ht.1 h5⟩
    · rintro ⟨-, h1, h2, h3, h4, h5⟩
      exact ⟨(), h1, (), h2, locs, h3, t, h4, (), ht.2 h5, rfl, rfl⟩

/-- The state after the checks of an access differs in the draw counter at most. -/
theorem memAccess_state {kind : AccessKind} {al : AlignRule} {n : Nat} {r : MemRef} {s t : State} {locs : List Nat}
    (h : memAccess kind al n r s = .ok (t, locs)) : t = { s with draws := t.draws } := by
  have h4 := alignChecked_eq_ok.1 (memAccess_eq_ok.1 h).2.2.2.2.1
  cases al with
  | required n => exact h4 ▸ rfl
  | definite n => exact h4.2 ▸ rfl
  | draw n =>
    simp only at h4
    split at h4
    · rw [h4.2]
    · rw [h4]

/-- An accessible operand passes the checks, and nothing is drawn. -/
theorem State.Accessible.memAccess {s : State} {kind : AccessKind} {al : AlignRule} {n : Nat} {r : MemRef}
    {locs : List Nat} (h : s.Accessible kind al n r locs) : memAccess kind al n r s = .ok (s, locs) := by
  obtain ⟨h1, h2, h3, h4, h5⟩ := h
  refine memAccess_eq_ok.2 ⟨h1, h2, ?_, h4, alignChecked_eq_ok.2 ?_, h5⟩
  · cases al <;> simp_all [alignRequired, AlignRule.Met]
  · cases al with
    | required n => rfl
    | definite n => exact ⟨h3, rfl⟩
    | draw n =>
      have : ¬(s.alignCheck = true ∧ (s.linear r).toNat % n ≠ 0) := fun hc => hc.2 (h3 hc.1)
      simp only [if_neg this]

/-! ### Memory operands -/

/-- What a load answers. -/
theorem loadMem_eq_ok {w : Nat} {al : AlignRule} {r : MemRef} {s t : State} {v : BitVec w} :
    loadMem w al r s = .ok (v, t) ↔
      ∃ locs, memAccess .read al (w / 8) r s = .ok (t, locs) ∧ v = leValue w (t.mem.readAll locs) := by
  simp only [loadMem, Check.bind_eq_ok, Check.ok.injEq, Prod.mk.injEq]
  constructor
  · rintro ⟨⟨u, locs⟩, h, rfl, rfl⟩
    exact ⟨locs, h, rfl⟩
  · rintro ⟨locs, h, rfl⟩
    exact ⟨(t, locs), h, rfl, rfl⟩

/-- What a store answers. -/
theorem storeMem_eq_ok {w : Nat} {al : AlignRule} {r : MemRef} {v : BitVec w} {s t : State} :
    storeMem al r v s = .ok t ↔
      ∃ u locs, memAccess .write al (w / 8) r s = .ok (u, locs) ∧
        t = { u with mem := u.mem.writeAll locs (leBytes (w / 8) v) } := by
  simp only [storeMem, Check.bind_eq_ok, Check.ok.injEq]
  constructor
  · rintro ⟨⟨u, locs⟩, h, rfl⟩
    exact ⟨u, locs, h, rfl⟩
  · rintro ⟨u, locs, h, rfl⟩
    exact ⟨(u, locs), h, rfl⟩

/-- What reading an r/m operand answers. -/
theorem readOperand_eq_ok {w : Nat} {al : AlignRule} {rd : RegNum → BitVec w} {o : Operand} {s t : State}
    {v : BitVec w} :
    readOperand w al rd o s = .ok (v, t) ↔
      (∃ n, o = .reg n ∧ v = rd n ∧ t = s) ∨ ∃ r, o = .mem r ∧ loadMem w al r s = .ok (v, t) := by
  cases o <;> simp [readOperand, eq_comm]

/-- What writing an r/m operand answers. -/
theorem writeOperand_eq_ok {w : Nat} {al : AlignRule} {wr : State → RegNum → BitVec w → State} {o : Operand}
    {v : BitVec w} {s t : State} :
    writeOperand al wr o v s = .ok t ↔
      (∃ n, o = .reg n ∧ t = wr s n v) ∨ ∃ r, o = .mem r ∧ storeMem al r v s = .ok t := by
  cases o <;> simp [writeOperand, eq_comm]

/-! ### The shapes of a move -/

/-- When a move within the registers completes, and its next state. -/
theorem regMove_eq_next {chk : State → Check Unit} {len : Nat} {f : State → State} {s t : State} :
    regMove chk len f s = .next t ↔ chk s = .ok () ∧ t = { f s with rip := s.nextRip len } := by
  simp only [regMove, complete_eq_next, Check.bind_eq_ok, Check.ok.injEq]
  constructor
  · rintro ⟨u, ⟨_, h, rfl⟩, rfl⟩
    exact ⟨h, rfl⟩
  · rintro ⟨h, rfl⟩
    exact ⟨f s, ⟨(), h, rfl⟩, rfl⟩

/-- When a move from an r/m operand completes, and its next state. -/
theorem moveIn_eq_next {w : Nat} {chk : State → Check Unit} {len : Nat} {al : AlignRule}
    {rd : State → RegNum → BitVec w} {o : Operand} {wr : State → BitVec w → State} {s t : State} :
    moveIn chk len al rd o wr s = .next t ↔
      chk s = .ok () ∧ ∃ v u, readOperand w al (rd s) o s = .ok (v, u) ∧
        t = { wr u v with rip := s.nextRip len } := by
  simp only [moveIn, complete_eq_next, Check.bind_eq_ok, Check.ok.injEq]
  constructor
  · rintro ⟨_, ⟨_, h, ⟨v, u⟩, h', rfl⟩, rfl⟩
    exact ⟨h, v, u, h', rfl⟩
  · rintro ⟨h, v, u, h', rfl⟩
    exact ⟨_, ⟨(), h, (v, u), h', rfl⟩, rfl⟩

/-- When a move to an r/m operand completes, and its next state. -/
theorem moveOut_eq_next {w : Nat} {chk : State → Check Unit} {len : Nat} {al : AlignRule} {v : State → BitVec w}
    {o : Operand} {wr : State → RegNum → BitVec w → State} {post : State → State} {s t : State} :
    moveOut chk len al v o wr post s = .next t ↔
      chk s = .ok () ∧ ∃ u, writeOperand al wr o (v s) s = .ok u ∧ t = { post u with rip := s.nextRip len } := by
  simp only [moveOut, complete_eq_next, Check.bind_eq_ok, Check.ok.injEq]
  constructor
  · rintro ⟨_, ⟨_, h, u, h', rfl⟩, rfl⟩
    exact ⟨h, u, h', rfl⟩
  · rintro ⟨h, u, h', rfl⟩
    exact ⟨_, ⟨(), h, u, h', rfl⟩, rfl⟩

/-- When a move from memory completes, and its next state. -/
theorem load_eq_next {w : Nat} {chk : State → Check Unit} {al : AlignRule} {r : MemRef}
    {wr : State → BitVec w → State} {s t : State} :
    load chk al r wr s = .next t ↔
      chk s = .ok () ∧ ∃ v u, loadMem w al r s = .ok (v, u) ∧ t = { wr u v with rip := s.nextRip r.len } := by
  simp only [load, complete_eq_next, Check.bind_eq_ok, Check.ok.injEq]
  constructor
  · rintro ⟨_, ⟨_, h, ⟨v, u⟩, h', rfl⟩, rfl⟩
    exact ⟨h, v, u, h', rfl⟩
  · rintro ⟨h, v, u, h', rfl⟩
    exact ⟨_, ⟨(), h, (v, u), h', rfl⟩, rfl⟩

/-- When a move to memory completes, and its next state. -/
theorem store_eq_next {w : Nat} {chk : State → Check Unit} {al : AlignRule} {r : MemRef} {v : State → BitVec w}
    {post : State → State} {s t : State} :
    store chk al r v post s = .next t ↔
      chk s = .ok () ∧ ∃ u, storeMem al r (v s) s = .ok u ∧ t = { post u with rip := s.nextRip r.len } := by
  simp only [store, complete_eq_next, Check.bind_eq_ok, Check.ok.injEq]
  constructor
  · rintro ⟨_, ⟨_, h, u, h', rfl⟩, rfl⟩
    exact ⟨h, u, h', rfl⟩
  · rintro ⟨h, u, h', rfl⟩
    exact ⟨_, ⟨(), h, u, h', rfl⟩, rfl⟩

/-! ### The step -/

/-- When a step completes: at the end of the run, or by executing the instruction decoded at RIP. -/
theorem step_eq_next {s t : State} :
    step s = .next t ↔
      s.contextRefusal = none ∧
        ((s.atEnd = true ∧ t = s) ∨
          (s.atEnd = false ∧ ∃ i, decode s.cfg.mode s.fetchBytes = .instr i ∧ exec i s = .next t)) := by
  unfold step
  cases s.contextRefusal with
  | some r => simp
  | none =>
    cases s.atEnd with
    | true => simp [eq_comm]
    | false => cases decode s.cfg.mode s.fetchBytes <;> simp [raise]

end Sys2Proof.Machine
end

