-- ==== Sys2Proof/Laws/Effect.lean ====
section
/-! SUPPORT. Once, what executing an instruction can do: its check procedure, then the checks of its memory operand,
then its effect on the registers or the store, then RIP; and what the effect leaves alone. Facts about every
instruction follow from `exec_effect` and `exec_next_cases` without unfolding a meaning. -/

namespace Sys2Proof.Machine

/-- Some fields that no effect reads. -/
structure Context where
  rflags : QWord
  draws : Nat
  cpl : Fin 4
  memTypes : List MemTypeRegion

/-- The state with these fields. -/
def State.inContext (s : State) (c : Context) : State :=
  { s with rflags := c.rflags, draws := c.draws, cpl := c.cpl, cfg := { s.cfg with memTypes := c.memTypes } }

/-- What the effect `f` of `i` leaves alone; its second argument is the bytes a load has read. -/
structure EffectKeeps (i : Instr) (f : State → List Byte → State) : Prop where
  system : ∀ s bs, SameSystem s (f s bs)
  mem : ∀ s bs, (f s bs).mem = s.mem
  draws : ∀ s bs, (f s bs).draws = s.draws
  vector : ∀ n, i.dest ≠ .vector n → ∀ s bs, (f s bs).ymmAt n = s.ymmAt n
  general : ∀ n, i.dest ≠ .gpr n → ∀ s bs, (f s bs).gprAt n = s.gprAt n
  mmx : ∀ n, i.dest ≠ .mmx n → ∀ s bs, (f s bs).x87.get n.toFin = s.x87.get n.toFin
  tags : (∀ g, i.gate ≠ .mmx g) → i.gate ≠ .movdq2q → ∀ s bs, (f s bs).top = s.top ∧ (f s bs).ftw = s.ftw
  context : ∀ (c : Context) s bs, f (s.inContext c) bs = (f s bs).inContext c

/-- What follows the check procedure of `i`: the access, if it has one, and the effect `f`; `b` gives the bytes it
stores. -/
def afterGate (i : Instr) (f : State → List Byte → State) (b : State → List Byte) (s : State) : Check State :=
  match i.access with
  | none => .ok (f s [])
  | some a =>
    (memAccess a.kind a.align a.size a.ref s).bind fun t =>
      match a.kind with
      | .read => .ok (f t.1 (t.1.mem.readAll t.2))
      | .write => .ok (f { t.1 with mem := t.1.mem.writeAll t.2 (b s) } [])

/-- `i` executes as its check procedure followed by some effect and some stored bytes. -/
def HasEffect (i : Instr) : Prop :=
  ∃ (f : State → List Byte → State) (b : State → List Byte), EffectKeeps i f ∧
    (∀ (c : Context) s, b (s.inContext c) = b s) ∧
    ∀ s, exec i s = complete i.len s ((i.gate.check s).bind fun _ => afterGate i f b s)

/-- The system state is the same as itself. -/
theorem SameSystem.rfl {s : State} : SameSystem s s := by
  simp [SameSystem]

/-- Two steps that each keep the system state keep it together. -/
theorem SameSystem.trans {s t u : State} (h : SameSystem s t) (h' : SameSystem t u) : SameSystem s u := by
  unfold SameSystem at *
  simp_all

/-- A write of the vector register that is the destination. -/
theorem EffectKeeps.vectorWrite {i : Instr} {f : State → List Byte → State} {d : RegNum}
    (v : State → List Byte → YWord) (hf : f = fun s bs => s.setYmm d (v s bs))
    (hv : ∀ (c : Context) s bs, v (s.inContext c) bs = v s bs) (hd : i.dest = .vector d) : EffectKeeps i f := by
  subst hf
  constructor
  case system => intro s bs; exact ⟨rfl, rfl, rfl, rfl, rfl, rfl, rfl, rfl, rfl⟩
  case vector => intro n hn s bs; exact State.ymmAt_setYmm_ne _ _ fun h => hn (h ▸ hd)
  case context => intro c s bs; simp only [hv]; rfl
  case tags => intros; exact ⟨rfl, rfl⟩
  all_goals intros; rfl

/-- No effect on the registers: the stores but the MMX ones. -/
theorem EffectKeeps.nothing {i : Instr} : EffectKeeps i fun s _ => s := by
  constructor
  case system => intros; exact SameSystem.rfl
  case tags => intros; exact ⟨rfl, rfl⟩
  all_goals intros; rfl

/-- An effect on the x87 state alone, on no data register but the destination's. -/
theorem EffectKeeps.x87State {i : Instr} {f : State → List Byte → State}
    (v : State → List Byte → Vector (BitVec 80) 8)
    (hf : f = fun s bs => { s with x87 := v s bs, top := 0, ftw := 0 })
    (hv : ∀ (c : Context) s bs, v (s.inContext c) bs = v s bs)
    (hd : ∀ n : MmxNum, i.dest ≠ .mmx n → ∀ s bs, (v s bs).get n.toFin = s.x87.get n.toFin)
    (hg : i.gate = .movdq2q ∨ ∃ g, i.gate = .mmx g) : EffectKeeps i f := by
  subst hf
  constructor
  case system => intros; exact SameSystem.rfl
  case mmx => exact hd
  case tags =>
    intro h1 h2
    rcases hg with h | ⟨g, h⟩
    · exact absurd h h2
    · exact absurd h (h1 g)
  case context => intro c s bs; simp only [hv]; rfl
  all_goals intros; rfl

/-- A write of the MMX register that is the destination, and the transition. -/
theorem EffectKeeps.mmxWrite {i : Instr} {f : State → List Byte → State} {d : MmxNum}
    (v : State → List Byte → QWord) (hf : f = fun s bs => (s.setMm d (v s bs)).mmxTransition)
    (hv : ∀ (c : Context) s bs, v (s.inContext c) bs = v s bs) (hd : i.dest = .mmx d)
    (hg : i.gate = .movdq2q ∨ ∃ g, i.gate = .mmx g) : EffectKeeps i f := by
  subst hf
  exact .x87State (fun s bs => (s.setMm d (v s bs)).x87) rfl (by intro c s bs; simp only [hv]; rfl)
    (fun n hn s bs => by
      have h : d ≠ n := fun h => hn (h ▸ hd)
      rw [State.x87_setMm, if_neg h]) hg

/-- The transition alone. -/
theorem EffectKeeps.transition {i : Instr} (hg : ∃ g, i.gate = .mmx g) :
    EffectKeeps i fun s _ => s.mmxTransition :=
  .x87State (fun s _ => s.x87) rfl (by intros; rfl) (by intros; rfl) (.inr hg)

/-- A write of the general-purpose register that is the destination. -/
theorem EffectKeeps.generalWrite {i : Instr} {d : RegNum} (v : State → QWord)
    (hv : ∀ (c : Context) s, v (s.inContext c) = v s) (hd : i.dest = .gpr d) :
    EffectKeeps i fun s _ => s.setGprByMode d (v s) := by
  constructor
  case system => intros; simp [SameSystem]
  case vector => intros; simp [State.ymmAt]
  case general => intro n hn s bs; exact State.gprAt_setGprByMode_ne _ _ fun h => hn (h ▸ hd)
  case context =>
    intro c s bs
    simp only [hv, State.setGprByMode]
    show (match s.cfg.mode with | .mode64 => _ | .mode32 => _) = _
    cases s.cfg.mode <;> rfl
  all_goals intros; simp

/-- Checks in sequence associate. -/
theorem Check.bind_assoc {α β γ : Type} (c : Check α) (f : α → Check β) (g : β → Check γ) :
    (c.bind f).bind g = c.bind fun a => (f a).bind g := by
  cases c <;> rfl

theorem effect_movddup (e : Legacy RM) : HasEffect (.movddup e) := by
  rcases e with ⟨p, x, q, n | op⟩
  · refine ⟨fun s _ => (fun t v => t.setXmmKeep (Legacy.mk p x q (RM.reg n)).regNum (v ++ v)) s (State.lowAt s (extend (rexB x) n)), fun _ => [],
      .vectorWrite (fun s bs => _) rfl (by intros; rfl) rfl, by intros; rfl, ?_⟩
    intro s
    simp only [exec, execMovddup, moveIn, readOperand, Legacy.operand, Check.bind_ok_left]; rfl
  · refine ⟨fun s bs => (fun t v => t.setXmmKeep (Legacy.mk p x q (RM.mem op)).regNum (v ++ v)) s (leValue 64 bs), fun _ => [],
      .vectorWrite (fun s bs => _) rfl (by intros; rfl) rfl, by intros; rfl, ?_⟩
    intro s
    simp only [exec, execMovddup, moveIn, readOperand, loadMem, Legacy.operand, Check.bind_assoc, Check.bind_ok_left]
    rfl

theorem effect_vmovddupX (e : Vex RM) : HasEffect (.vmovddupX e) := by
  rcases e with ⟨p, x, q, n | op⟩
  · refine ⟨fun s _ => (fun t v => t.setXmmZero (Vex.mk p x q (RM.reg n)).regNum (v ++ v)) s (State.lowAt s (extend x.b n)), fun _ => [],
      .vectorWrite (fun s bs => _) rfl (by intros; rfl) rfl, by intros; rfl, ?_⟩
    intro s
    simp only [exec, execVmovddupX, moveIn, readOperand, Vex.operand, Check.bind_ok_left]; rfl
  · refine ⟨fun s bs => (fun t v => t.setXmmZero (Vex.mk p x q (RM.mem op)).regNum (v ++ v)) s (leValue 64 bs), fun _ => [],
      .vectorWrite (fun s bs => _) rfl (by intros; rfl) rfl, by intros; rfl, ?_⟩
    intro s
    simp only [exec, execVmovddupX, moveIn, readOperand, loadMem, Vex.operand, Check.bind_assoc, Check.bind_ok_left]
    rfl

theorem effect_vmovddupY (e : Vex RM) : HasEffect (.vmovddupY e) := by
  rcases e with ⟨p, x, q, n | op⟩
  · refine ⟨fun s _ => (fun t v => t.setYmm (Vex.mk p x q (RM.reg n)).regNum (duplicateEven v)) s (State.ymmAt s (extend x.b n)), fun _ => [],
      .vectorWrite (fun s bs => _) rfl (by intros; rfl) rfl, by intros; rfl, ?_⟩
    intro s
    simp only [exec, execVmovddupY, moveIn, readOperand, Vex.operand, Check.bind_ok_left]; rfl
  · refine ⟨fun s bs => (fun t v => t.setYmm (Vex.mk p x q (RM.mem op)).regNum (duplicateEven v)) s (leValue 256 bs), fun _ => [],
      .vectorWrite (fun s bs => _) rfl (by intros; rfl) rfl, by intros; rfl, ?_⟩
    intro s
    simp only [exec, execVmovddupY, moveIn, readOperand, loadMem, Vex.operand, Check.bind_assoc, Check.bind_ok_left]
    rfl

theorem effect_movdqaLoad (e : Legacy RM) : HasEffect (.movdqaLoad e) := by
  rcases e with ⟨p, x, q, n | op⟩
  · refine ⟨fun s _ => (fun t v => t.setXmmKeep (Legacy.mk p x q (RM.reg n)).regNum v) s (State.xmmAt s (extend (rexB x) n)), fun _ => [],
      .vectorWrite (fun s bs => _) rfl (by intros; rfl) rfl, by intros; rfl, ?_⟩
    intro s
    simp only [exec, execMovdqaLoad, moveIn, readOperand, Legacy.operand, Check.bind_ok_left]; rfl
  · refine ⟨fun s bs => (fun t v => t.setXmmKeep (Legacy.mk p x q (RM.mem op)).regNum v) s (leValue 128 bs), fun _ => [],
      .vectorWrite (fun s bs => _) rfl (by intros; rfl) rfl, by intros; rfl, ?_⟩
    intro s
    simp only [exec, execMovdqaLoad, moveIn, readOperand, loadMem, Legacy.operand, Check.bind_assoc, Check.bind_ok_left]
    rfl

theorem effect_movdqaStore (e : Legacy RM) : HasEffect (.movdqaStore e) := by
  rcases e with ⟨p, x, q, n | op⟩
  · refine ⟨fun s _ => State.setXmmKeep s (extend (rexB x) n) ((fun t => t.xmmAt (Legacy.mk p x q (RM.reg n)).regNum) s), fun _ => [],
      .vectorWrite (fun s bs => _) rfl (by intros; rfl) rfl, by intros; rfl, ?_⟩
    intro s
    simp only [exec, execMovdqaStore, moveOut, writeOperand, Legacy.operand, Check.bind_ok_left]; rfl
  · refine ⟨fun s _ => s, fun s => leBytes 16 ((fun t => t.xmmAt (Legacy.mk p x q (RM.mem op)).regNum) s), .nothing,
      by intros; rfl, ?_⟩
    intro s
    simp only [exec, execMovdqaStore, moveOut, writeOperand, storeMem, Legacy.operand, Check.bind_assoc, Check.bind_ok_left]
    rfl

theorem effect_vmovdqaXLoad (e : Vex RM) : HasEffect (.vmovdqaXLoad e) := by
  rcases e with ⟨p, x, q, n | op⟩
  · refine ⟨fun s _ => (fun t v => t.setXmmZero (Vex.mk p x q (RM.reg n)).regNum v) s (State.xmmAt s (extend x.b n)), fun _ => [],
      .vectorWrite (fun s bs => _) rfl (by intros; rfl) rfl, by intros; rfl, ?_⟩
    intro s
    simp only [exec, execVmovdqaXLoad, moveIn, readOperand, Vex.operand, Check.bind_ok_left]; rfl
  · refine ⟨fun s bs => (fun t v => t.setXmmZero (Vex.mk p x q (RM.mem op)).regNum v) s (leValue 128 bs), fun _ => [],
      .vectorWrite (fun s bs => _) rfl (by intros; rfl) rfl, by intros; rfl, ?_⟩
    intro s
    simp only [exec, execVmovdqaXLoad, moveIn, readOperand, loadMem, Vex.operand, Check.bind_assoc, Check.bind_ok_left]
    rfl

theorem effect_vmovdqaXStore (e : Vex RM) : HasEffect (.vmovdqaXStore e) := by
  rcases e with ⟨p, x, q, n | op⟩
  · refine ⟨fun s _ => State.setXmmZero s (extend x.b n) ((fun t => t.xmmAt (Vex.mk p x q (RM.reg n)).regNum) s), fun _ => [],
      .vectorWrite (fun s bs => _) rfl (by intros; rfl) rfl, by intros; rfl, ?_⟩
    intro s
    simp only [exec, execVmovdqaXStore, moveOut, writeOperand, Vex.operand, Check.bind_ok_left]; rfl
  · refine ⟨fun s _ => s, fun s => leBytes 16 ((fun t => t.xmmAt (Vex.mk p x q (RM.mem op)).regNum) s), .nothing,
      by intros; rfl, ?_⟩
    intro s
    simp only [exec, execVmovdqaXStore, moveOut, writeOperand, storeMem, Vex.operand, Check.bind_assoc, Check.bind_ok_left]
    rfl

theorem effect_vmovdqaYLoad (e : Vex RM) : HasEffect (.vmovdqaYLoad e) := by
  rcases e with ⟨p, x, q, n | op⟩
  · refine ⟨fun s _ => (fun t v => t.setYmm (Vex.mk p x q (RM.reg n)).regNum v) s (State.ymmAt s (extend x.b n)), fun _ => [],
      .vectorWrite (fun s bs => _) rfl (by intros; rfl) rfl, by intros; rfl, ?_⟩
    intro s
    simp only [exec, execVmovdqaYLoad, moveIn, readOperand, Vex.operand, Check.bind_ok_left]; rfl
  · refine ⟨fun s bs => (fun t v => t.setYmm (Vex.mk p x q (RM.mem op)).regNum v) s (leValue 256 bs), fun _ => [],
      .vectorWrite (fun s bs => _) rfl (by intros; rfl) rfl, by intros; rfl, ?_⟩
    intro s
    simp only [exec, execVmovdqaYLoad, moveIn, readOperand, loadMem, Vex.operand, Check.bind_assoc, Check.bind_ok_left]
    rfl

theorem effect_vmovdqaYStore (e : Vex RM) : HasEffect (.vmovdqaYStore e) := by
  rcases e with ⟨p, x, q, n | op⟩
  · refine ⟨fun s _ => State.setYmm s (extend x.b n) ((fun t => t.ymmAt (Vex.mk p x q (RM.reg n)).regNum) s), fun _ => [],
      .vectorWrite (fun s bs => _) rfl (by intros; rfl) rfl, by intros; rfl, ?_⟩
    intro s
    simp only [exec, execVmovdqaYStore, moveOut, writeOperand, Vex.operand, Check.bind_ok_left]; rfl
  · refine ⟨fun s _ => s, fun s => leBytes 32 ((fun t => t.ymmAt (Vex.mk p x q (RM.mem op)).regNum) s), .nothing,
      by intros; rfl, ?_⟩
    intro s
    simp only [exec, execVmovdqaYStore, moveOut, writeOperand, storeMem, Vex.operand, Check.bind_assoc, Check.bind_ok_left]
    rfl

theorem effect_movdquLoad (e : Legacy RM) : HasEffect (.movdquLoad e) := by
  rcases e with ⟨p, x, q, n | op⟩
  · refine ⟨fun s _ => (fun t v => t.setXmmKeep (Legacy.mk p x q (RM.reg n)).regNum v) s (State.xmmAt s (extend (rexB x) n)), fun _ => [],
      .vectorWrite (fun s bs => _) rfl (by intros; rfl) rfl, by intros; rfl, ?_⟩
    intro s
    simp only [exec, execMovdquLoad, moveIn, readOperand, Legacy.operand, Check.bind_ok_left]; rfl
  · refine ⟨fun s bs => (fun t v => t.setXmmKeep (Legacy.mk p x q (RM.mem op)).regNum v) s (leValue 128 bs), fun _ => [],
      .vectorWrite (fun s bs => _) rfl (by intros; rfl) rfl, by intros; rfl, ?_⟩
    intro s
    simp only [exec, execMovdquLoad, moveIn, readOperand, loadMem, Legacy.operand, Check.bind_assoc, Check.bind_ok_left]
    rfl

theorem effect_movdquStore (e : Legacy RM) : HasEffect (.movdquStore e) := by
  rcases e with ⟨p, x, q, n | op⟩
  · refine ⟨fun s _ => State.setXmmKeep s (extend (rexB x) n) ((fun t => t.xmmAt (Legacy.mk p x q (RM.reg n)).regNum) s), fun _ => [],
      .vectorWrite (fun s bs => _) rfl (by intros; rfl) rfl, by intros; rfl, ?_⟩
    intro s
    simp only [exec, execMovdquStore, moveOut, writeOperand, Legacy.operand, Check.bind_ok_left]; rfl
  · refine ⟨fun s _ => s, fun s => leBytes 16 ((fun t => t.xmmAt (Legacy.mk p x q (RM.mem op)).regNum) s), .nothing,
      by intros; rfl, ?_⟩
    intro s
    simp only [exec, execMovdquStore, moveOut, writeOperand, storeMem, Legacy.operand, Check.bind_assoc, Check.bind_ok_left]
    rfl

theorem effect_vmovdquXLoad (e : Vex RM) : HasEffect (.vmovdquXLoad e) := by
  rcases e with ⟨p, x, q, n | op⟩
  · refine ⟨fun s _ => (fun t v => t.setXmmZero (Vex.mk p x q (RM.reg n)).regNum v) s (State.xmmAt s (extend x.b n)), fun _ => [],
      .vectorWrite (fun s bs => _) rfl (by intros; rfl) rfl, by intros; rfl, ?_⟩
    intro s
    simp only [exec, execVmovdquXLoad, moveIn, readOperand, Vex.operand, Check.bind_ok_left]; rfl
  · refine ⟨fun s bs => (fun t v => t.setXmmZero (Vex.mk p x q (RM.mem op)).regNum v) s (leValue 128 bs), fun _ => [],
      .vectorWrite (fun s bs => _) rfl (by intros; rfl) rfl, by intros; rfl, ?_⟩
    intro s
    simp only [exec, execVmovdquXLoad, moveIn, readOperand, loadMem, Vex.operand, Check.bind_assoc, Check.bind_ok_left]
    rfl

theorem effect_vmovdquXStore (e : Vex RM) : HasEffect (.vmovdquXStore e) := by
  rcases e with ⟨p, x, q, n | op⟩
  · refine ⟨fun s _ => State.setXmmZero s (extend x.b n) ((fun t => t.xmmAt (Vex.mk p x q (RM.reg n)).regNum) s), fun _ => [],
      .vectorWrite (fun s bs => _) rfl (by intros; rfl) rfl, by intros; rfl, ?_⟩
    intro s
    simp only [exec, execVmovdquXStore, moveOut, writeOperand, Vex.operand, Check.bind_ok_left]; rfl
  · refine ⟨fun s _ => s, fun s => leBytes 16 ((fun t => t.xmmAt (Vex.mk p x q (RM.mem op)).regNum) s), .nothing,
      by intros; rfl, ?_⟩
    intro s
    simp only [exec, execVmovdquXStore, moveOut, writeOperand, storeMem, Vex.operand, Check.bind_assoc, Check.bind_ok_left]
    rfl

theorem effect_vmovdquYLoad (e : Vex RM) : HasEffect (.vmovdquYLoad e) := by
  rcases e with ⟨p, x, q, n | op⟩
  · refine ⟨fun s _ => (fun t v => t.setYmm (Vex.mk p x q (RM.reg n)).regNum v) s (State.ymmAt s (extend x.b n)), fun _ => [],
      .vectorWrite (fun s bs => _) rfl (by intros; rfl) rfl, by intros; rfl, ?_⟩
    intro s
    simp only [exec, execVmovdquYLoad, moveIn, readOperand, Vex.operand, Check.bind_ok_left]; rfl
  · refine ⟨fun s bs => (fun t v => t.setYmm (Vex.mk p x q (RM.mem op)).regNum v) s (leValue 256 bs), fun _ => [],
      .vectorWrite (fun s bs => _) rfl (by intros; rfl) rfl, by intros; rfl, ?_⟩
    intro s
    simp only [exec, execVmovdquYLoad, moveIn, readOperand, loadMem, Vex.operand, Check.bind_assoc, Check.bind_ok_left]
    rfl

theorem effect_vmovdquYStore (e : Vex RM) : HasEffect (.vmovdquYStore e) := by
  rcases e with ⟨p, x, q, n | op⟩
  · refine ⟨fun s _ => State.setYmm s (extend x.b n) ((fun t => t.ymmAt (Vex.mk p x q (RM.reg n)).regNum) s), fun _ => [],
      .vectorWrite (fun s bs => _) rfl (by intros; rfl) rfl, by intros; rfl, ?_⟩
    intro s
    simp only [exec, execVmovdquYStore, moveOut, writeOperand, Vex.operand, Check.bind_ok_left]; rfl
  · refine ⟨fun s _ => s, fun s => leBytes 32 ((fun t => t.ymmAt (Vex.mk p x q (RM.mem op)).regNum) s), .nothing,
      by intros; rfl, ?_⟩
    intro s
    simp only [exec, execVmovdquYStore, moveOut, writeOperand, storeMem, Vex.operand, Check.bind_assoc, Check.bind_ok_left]
    rfl

theorem effect_movdq2q (e : Legacy RegField) : HasEffect (.movdq2q e) := by
  refine ⟨fun s _ => (fun t => (t.setMm e.reg (t.lowAt e.rmNum)).mmxTransition) s, fun _ => [],
    .mmxWrite (fun s bs => _) rfl (by intros; rfl) rfl (.inl rfl), by intros; rfl, ?_⟩
  intro s
  simp only [exec, execMovdq2q, regMove]; rfl

theorem effect_movhlps (e : Legacy RegField) : HasEffect (.movhlps e) := by
  refine ⟨fun s _ => (fun t => t.setXmmKeep e.regNum (t.highAt e.regNum ++ t.highAt e.rmNum)) s, fun _ => [],
    .vectorWrite (fun s bs => _) rfl (by intros; rfl) rfl, by intros; rfl, ?_⟩
  intro s
  simp only [exec, execMovhlps, regMove]; rfl

theorem effect_vmovhlps (v : RegNum) (e : Vex RegField) : HasEffect (.vmovhlps v e) := by
  refine ⟨fun s _ => (fun t => t.setXmmZero e.regNum (t.highAt v ++ t.highAt e.rmNum)) s, fun _ => [],
    .vectorWrite (fun s bs => _) rfl (by intros; rfl) rfl, by intros; rfl, ?_⟩
  intro s
  simp only [exec, execVmovhlps, regMove]; rfl

theorem effect_movhpdLoad (e : Legacy MemOp) : HasEffect (.movhpdLoad e) := by
  refine ⟨fun s bs => (fun t (m : QWord) => t.setXmmKeep e.regNum (m ++ t.lowAt e.regNum)) s (leValue 64 bs), fun _ => [],
    .vectorWrite (fun s bs => _) rfl (by intros; rfl) rfl, by intros; rfl, ?_⟩
  intro s
  simp only [exec, execMovhpdLoad, load, loadMem, Check.bind_assoc, Check.bind_ok_left]; rfl

theorem effect_movhpdStore (e : Legacy MemOp) : HasEffect (.movhpdStore e) := by
  refine ⟨fun s _ => s, fun s => leBytes 8 ((fun t => t.highAt e.regNum) s), .nothing, by intros; rfl, ?_⟩
  intro s
  simp only [exec, execMovhpdStore, store, storeMem, Check.bind_assoc, Check.bind_ok_left]; rfl

theorem effect_vmovhpdLoad (v : RegNum) (e : Vex MemOp) : HasEffect (.vmovhpdLoad v e) := by
  refine ⟨fun s bs => (fun t (m : QWord) => t.setXmmZero e.regNum (m ++ t.lowAt v)) s (leValue 64 bs), fun _ => [],
    .vectorWrite (fun s bs => _) rfl (by intros; rfl) rfl, by intros; rfl, ?_⟩
  intro s
  simp only [exec, execVmovhpdLoad, load, loadMem, Check.bind_assoc, Check.bind_ok_left]; rfl

theorem effect_vmovhpdStore (e : Vex MemOp) : HasEffect (.vmovhpdStore e) := by
  refine ⟨fun s _ => s, fun s => leBytes 8 ((fun t => t.highAt e.regNum) s), .nothing, by intros; rfl, ?_⟩
  intro s
  simp only [exec, execVmovhpdStore, store, storeMem, Check.bind_assoc, Check.bind_ok_left]; rfl

theorem effect_movhpsLoad (e : Legacy MemOp) : HasEffect (.movhpsLoad e) := by
  refine ⟨fun s bs => (fun t (m : QWord) => t.setXmmKeep e.regNum (m ++ t.lowAt e.regNum)) s (leValue 64 bs), fun _ => [],
    .vectorWrite (fun s bs => _) rfl (by intros; rfl) rfl, by intros; rfl, ?_⟩
  intro s
  simp only [exec, execMovhpsLoad, load, loadMem, Check.bind_assoc, Check.bind_ok_left]; rfl

theorem effect_movhpsStore (e : Legacy MemOp) : HasEffect (.movhpsStore e) := by
  refine ⟨fun s _ => s, fun s => leBytes 8 ((fun t => t.highAt e.regNum) s), .nothing, by intros; rfl, ?_⟩
  intro s
  simp only [exec, execMovhpsStore, store, storeMem, Check.bind_assoc, Check.bind_ok_left]; rfl

theorem effect_vmovhpsLoad (v : RegNum) (e : Vex MemOp) : HasEffect (.vmovhpsLoad v e) := by
  refine ⟨fun s bs => (fun t (m : QWord) => t.setXmmZero e.regNum (m ++ t.lowAt v)) s (leValue 64 bs), fun _ => [],
    .vectorWrite (fun s bs => _) rfl (by intros; rfl) rfl, by intros; rfl, ?_⟩
  intro s
  simp only [exec, execVmovhpsLoad, load, loadMem, Check.bind_assoc, Check.bind_ok_left]; rfl

theorem effect_vmovhpsStore (e : Vex MemOp) : HasEffect (.vmovhpsStore e) := by
  refine ⟨fun s _ => s, fun s => leBytes 8 ((fun t => t.highAt e.regNum) s), .nothing, by intros; rfl, ?_⟩
  intro s
  simp only [exec, execVmovhpsStore, store, storeMem, Check.bind_assoc, Check.bind_ok_left]; rfl

theorem effect_movlhps (e : Legacy RegField) : HasEffect (.movlhps e) := by
  refine ⟨fun s _ => (fun t => t.setXmmKeep e.regNum (t.lowAt e.rmNum ++ t.lowAt e.regNum)) s, fun _ => [],
    .vectorWrite (fun s bs => _) rfl (by intros; rfl) rfl, by intros; rfl, ?_⟩
  intro s
  simp only [exec, execMovlhps, regMove]; rfl

theorem effect_vmovlhps (v : RegNum) (e : Vex RegField) : HasEffect (.vmovlhps v e) := by
  refine ⟨fun s _ => (fun t => t.setXmmZero e.regNum (t.lowAt e.rmNum ++ t.lowAt v)) s, fun _ => [],
    .vectorWrite (fun s bs => _) rfl (by intros; rfl) rfl, by intros; rfl, ?_⟩
  intro s
  simp only [exec, execVmovlhps, regMove]; rfl

theorem effect_movlpdLoad (e : Legacy MemOp) : HasEffect (.movlpdLoad e) := by
  refine ⟨fun s bs => (fun t (m : QWord) => t.setXmmKeep e.regNum (t.highAt e.regNum ++ m)) s (leValue 64 bs), fun _ => [],
    .vectorWrite (fun s bs => _) rfl (by intros; rfl) rfl, by intros; rfl, ?_⟩
  intro s
  simp only [exec, execMovlpdLoad, load, loadMem, Check.bind_assoc, Check.bind_ok_left]; rfl

theorem effect_movlpdStore (e : Legacy MemOp) : HasEffect (.movlpdStore e) := by
  refine ⟨fun s _ => s, fun s => leBytes 8 ((fun t => t.lowAt e.regNum) s), .nothing, by intros; rfl, ?_⟩
  intro s
  simp only [exec, execMovlpdStore, store, storeMem, Check.bind_assoc, Check.bind_ok_left]; rfl

theorem effect_vmovlpdLoad (v : RegNum) (e : Vex MemOp) : HasEffect (.vmovlpdLoad v e) := by
  refine ⟨fun s bs => (fun t (m : QWord) => t.setXmmZero e.regNum (t.highAt v ++ m)) s (leValue 64 bs), fun _ => [],
    .vectorWrite (fun s bs => _) rfl (by intros; rfl) rfl, by intros; rfl, ?_⟩
  intro s
  simp only [exec, execVmovlpdLoad, load, loadMem, Check.bind_assoc, Check.bind_ok_left]; rfl

theorem effect_vmovlpdStore (e : Vex MemOp) : HasEffect (.vmovlpdStore e) := by
  refine ⟨fun s _ => s, fun s => leBytes 8 ((fun t => t.lowAt e.regNum) s), .nothing, by intros; rfl, ?_⟩
  intro s
  simp only [exec, execVmovlpdStore, store, storeMem, Check.bind_assoc, Check.bind_ok_left]; rfl

theorem effect_movlpsLoad (e : Legacy MemOp) : HasEffect (.movlpsLoad e) := by
  refine ⟨fun s bs => (fun t (m : QWord) => t.setXmmKeep e.regNum (t.highAt e.regNum ++ m)) s (leValue 64 bs), fun _ => [],
    .vectorWrite (fun s bs => _) rfl (by intros; rfl) rfl, by intros; rfl, ?_⟩
  intro s
  simp only [exec, execMovlpsLoad, load, loadMem, Check.bind_assoc, Check.bind_ok_left]; rfl

theorem effect_movlpsStore (e : Legacy MemOp) : HasEffect (.movlpsStore e) := by
  refine ⟨fun s _ => s, fun s => leBytes 8 ((fun t => t.lowAt e.regNum) s), .nothing, by intros; rfl, ?_⟩
  intro s
  simp only [exec, execMovlpsStore, store, storeMem, Check.bind_assoc, Check.bind_ok_left]; rfl

theorem effect_vmovlpsLoad (v : RegNum) (e : Vex MemOp) : HasEffect (.vmovlpsLoad v e) := by
  refine ⟨fun s bs => (fun t (m : QWord) => t.setXmmZero e.regNum (t.highAt v ++ m)) s (leValue 64 bs), fun _ => [],
    .vectorWrite (fun s bs => _) rfl (by intros; rfl) rfl, by intros; rfl, ?_⟩
  intro s
  simp only [exec, execVmovlpsLoad, load, loadMem, Check.bind_assoc, Check.bind_ok_left]; rfl

theorem effect_vmovlpsStore (e : Vex MemOp) : HasEffect (.vmovlpsStore e) := by
  refine ⟨fun s _ => s, fun s => leBytes 8 ((fun t => t.lowAt e.regNum) s), .nothing, by intros; rfl, ?_⟩
  intro s
  simp only [exec, execVmovlpsStore, store, storeMem, Check.bind_assoc, Check.bind_ok_left]; rfl

theorem effect_movmskpd (e : Legacy RegField) : HasEffect (.movmskpd e) := by
  refine ⟨fun s _ => (fun t => t.setGprByMode e.regNum (signMask 64 2 (t.xmmAt e.rmNum))) s, fun _ => [],
    .generalWrite _ (by intros; rfl) rfl, by intros; rfl, ?_⟩
  intro s
  simp only [exec, execMovmskpd, regMove]; rfl

theorem effect_vmovmskpdX (e : Vex RegField) : HasEffect (.vmovmskpdX e) := by
  refine ⟨fun s _ => (fun t => t.setGprByMode e.regNum (signMask 64 2 (t.xmmAt e.rmNum))) s, fun _ => [],
    .generalWrite _ (by intros; rfl) rfl, by intros; rfl, ?_⟩
  intro s
  simp only [exec, execVmovmskpdX, regMove]; rfl

theorem effect_vmovmskpdY (e : Vex RegField) : HasEffect (.vmovmskpdY e) := by
  refine ⟨fun s _ => (fun t => t.setGprByMode e.regNum (signMask 64 4 (t.ymmAt e.rmNum))) s, fun _ => [],
    .generalWrite _ (by intros; rfl) rfl, by intros; rfl, ?_⟩
  intro s
  simp only [exec, execVmovmskpdY, regMove]; rfl

theorem effect_movmskps (e : Legacy RegField) : HasEffect (.movmskps e) := by
  refine ⟨fun s _ => (fun t => t.setGprByMode e.regNum (signMask 32 4 (t.xmmAt e.rmNum))) s, fun _ => [],
    .generalWrite _ (by intros; rfl) rfl, by intros; rfl, ?_⟩
  intro s
  simp only [exec, execMovmskps, regMove]; rfl

theorem effect_vmovmskpsX (e : Vex RegField) : HasEffect (.vmovmskpsX e) := by
  refine ⟨fun s _ => (fun t => t.setGprByMode e.regNum (signMask 32 4 (t.xmmAt e.rmNum))) s, fun _ => [],
    .generalWrite _ (by intros; rfl) rfl, by intros; rfl, ?_⟩
  intro s
  simp only [exec, execVmovmskpsX, regMove]; rfl

theorem effect_vmovmskpsY (e : Vex RegField) : HasEffect (.vmovmskpsY e) := by
  refine ⟨fun s _ => (fun t => t.setGprByMode e.regNum (signMask 32 8 (t.ymmAt e.rmNum))) s, fun _ => [],
    .generalWrite _ (by intros; rfl) rfl, by intros; rfl, ?_⟩
  intro s
  simp only [exec, execVmovmskpsY, regMove]; rfl

theorem effect_movntdqa (e : Legacy MemOp) : HasEffect (.movntdqa e) := by
  refine ⟨fun s bs => (fun t v => t.setXmmKeep e.regNum v) s (leValue 128 bs), fun _ => [],
    .vectorWrite (fun s bs => _) rfl (by intros; rfl) rfl, by intros; rfl, ?_⟩
  intro s
  simp only [exec, execMovntdqa, load, loadMem, Check.bind_assoc, Check.bind_ok_left]; rfl

theorem effect_vmovntdqaX (e : Vex MemOp) : HasEffect (.vmovntdqaX e) := by
  refine ⟨fun s bs => (fun t v => t.setXmmZero e.regNum v) s (leValue 128 bs), fun _ => [],
    .vectorWrite (fun s bs => _) rfl (by intros; rfl) rfl, by intros; rfl, ?_⟩
  intro s
  simp only [exec, execVmovntdqaX, load, loadMem, Check.bind_assoc, Check.bind_ok_left]; rfl

theorem effect_vmovntdqaY (e : Vex MemOp) : HasEffect (.vmovntdqaY e) := by
  refine ⟨fun s bs => (fun t v => t.setYmm e.regNum v) s (leValue 256 bs), fun _ => [],
    .vectorWrite (fun s bs => _) rfl (by intros; rfl) rfl, by intros; rfl, ?_⟩
  intro s
  simp only [exec, execVmovntdqaY, load, loadMem, Check.bind_assoc, Check.bind_ok_left]; rfl

theorem effect_movntdq (e : Legacy MemOp) : HasEffect (.movntdq e) := by
  refine ⟨fun s _ => s, fun s => leBytes 16 ((fun t => t.xmmAt e.regNum) s), .nothing, by intros; rfl, ?_⟩
  intro s
  simp only [exec, execMovntdq, store, storeMem, Check.bind_assoc, Check.bind_ok_left]; rfl

theorem effect_vmovntdqX (e : Vex MemOp) : HasEffect (.vmovntdqX e) := by
  refine ⟨fun s _ => s, fun s => leBytes 16 ((fun t => t.xmmAt e.regNum) s), .nothing, by intros; rfl, ?_⟩
  intro s
  simp only [exec, execVmovntdqX, store, storeMem, Check.bind_assoc, Check.bind_ok_left]; rfl

theorem effect_vmovntdqY (e : Vex MemOp) : HasEffect (.vmovntdqY e) := by
  refine ⟨fun s _ => s, fun s => leBytes 32 ((fun t => t.ymmAt e.regNum) s), .nothing, by intros; rfl, ?_⟩
  intro s
  simp only [exec, execVmovntdqY, store, storeMem, Check.bind_assoc, Check.bind_ok_left]; rfl

theorem effect_movnti32 (e : Legacy MemOp) : HasEffect (.movnti32 e) := by
  refine ⟨fun s _ => s, fun s => leBytes 4 ((fun t => (t.gprAt e.regNum).setWidth 32) s), .nothing, by intros; rfl, ?_⟩
  intro s
  simp only [exec, execMovnti32, store, storeMem, Check.bind_assoc, Check.bind_ok_left]; rfl

theorem effect_movnti64 (e : Legacy MemOp) : HasEffect (.movnti64 e) := by
  refine ⟨fun s _ => s, fun s => leBytes 8 ((fun t => t.gprAt e.regNum) s), .nothing, by intros; rfl, ?_⟩
  intro s
  simp only [exec, execMovnti64, store, storeMem, Check.bind_assoc, Check.bind_ok_left]; rfl

theorem effect_movntpd (e : Legacy MemOp) : HasEffect (.movntpd e) := by
  refine ⟨fun s _ => s, fun s => leBytes 16 ((fun t => t.xmmAt e.regNum) s), .nothing, by intros; rfl, ?_⟩
  intro s
  simp only [exec, execMovntpd, store, storeMem, Check.bind_assoc, Check.bind_ok_left]; rfl

theorem effect_vmovntpdX (e : Vex MemOp) : HasEffect (.vmovntpdX e) := by
  refine ⟨fun s _ => s, fun s => leBytes 16 ((fun t => t.xmmAt e.regNum) s), .nothing, by intros; rfl, ?_⟩
  intro s
  simp only [exec, execVmovntpdX, store, storeMem, Check.bind_assoc, Check.bind_ok_left]; rfl

theorem effect_vmovntpdY (e : Vex MemOp) : HasEffect (.vmovntpdY e) := by
  refine ⟨fun s _ => s, fun s => leBytes 32 ((fun t => t.ymmAt e.regNum) s), .nothing, by intros; rfl, ?_⟩
  intro s
  simp only [exec, execVmovntpdY, store, storeMem, Check.bind_assoc, Check.bind_ok_left]; rfl

theorem effect_movntps (e : Legacy MemOp) : HasEffect (.movntps e) := by
  refine ⟨fun s _ => s, fun s => leBytes 16 ((fun t => t.xmmAt e.regNum) s), .nothing, by intros; rfl, ?_⟩
  intro s
  simp only [exec, execMovntps, store, storeMem, Check.bind_assoc, Check.bind_ok_left]; rfl

theorem effect_vmovntpsX (e : Vex MemOp) : HasEffect (.vmovntpsX e) := by
  refine ⟨fun s _ => s, fun s => leBytes 16 ((fun t => t.xmmAt e.regNum) s), .nothing, by intros; rfl, ?_⟩
  intro s
  simp only [exec, execVmovntpsX, store, storeMem, Check.bind_assoc, Check.bind_ok_left]; rfl

theorem effect_vmovntpsY (e : Vex MemOp) : HasEffect (.vmovntpsY e) := by
  refine ⟨fun s _ => s, fun s => leBytes 32 ((fun t => t.ymmAt e.regNum) s), .nothing, by intros; rfl, ?_⟩
  intro s
  simp only [exec, execVmovntpsY, store, storeMem, Check.bind_assoc, Check.bind_ok_left]; rfl

theorem effect_movntq (e : Legacy MemOp) : HasEffect (.movntq e) := by
  refine ⟨fun s _ => s.mmxTransition, fun s => leBytes 8 ((fun t => t.mmAt e.reg) s), .transition ⟨_, rfl⟩, by intros; rfl, ?_⟩
  intro s
  simp only [exec, execMovntq, store, storeMem, Check.bind_assoc, Check.bind_ok_left]; rfl

theorem effect_movqMmLoad (e : Legacy RM) : HasEffect (.movqMmLoad e) := by
  rcases e with ⟨p, x, q, n | op⟩
  · refine ⟨fun s _ => (fun t v => (t.setMm q v).mmxTransition) s ((fun t n => t.mmAt (n.setWidth 3)) s (extend (rexB x) n)), fun _ => [],
      .mmxWrite (fun s bs => _) rfl (by intros; rfl) rfl (.inr ⟨_, rfl⟩), by intros; rfl, ?_⟩
    intro s
    simp only [exec, execMovqMmLoad, moveIn, readOperand, Legacy.operand, Check.bind_ok_left]; rfl
  · refine ⟨fun s bs => (fun t v => (t.setMm q v).mmxTransition) s (leValue 64 bs), fun _ => [],
      .mmxWrite (fun s bs => _) rfl (by intros; rfl) rfl (.inr ⟨_, rfl⟩), by intros; rfl, ?_⟩
    intro s
    simp only [exec, execMovqMmLoad, moveIn, readOperand, loadMem, Legacy.operand, Check.bind_assoc, Check.bind_ok_left]
    rfl

theorem effect_movqMmStore (e : Legacy RM) : HasEffect (.movqMmStore e) := by
  rcases e with ⟨p, x, q, n | op⟩
  · refine ⟨fun s _ => State.mmxTransition ((fun t n v => t.setMm (n.setWidth 3) v) s (extend (rexB x) n) ((fun t => t.mmAt q) s)), fun _ => [],
      .mmxWrite (fun s bs => _) rfl (by intros; rfl) rfl (.inr ⟨_, rfl⟩), by intros; rfl, ?_⟩
    intro s
    simp only [exec, execMovqMmStore, moveOut, writeOperand, Legacy.operand, Check.bind_ok_left]; rfl
  · refine ⟨fun s _ => s.mmxTransition, fun s => leBytes 8 ((fun t => t.mmAt q) s), .transition ⟨_, rfl⟩,
      by intros; rfl, ?_⟩
    intro s
    simp only [exec, execMovqMmStore, moveOut, writeOperand, storeMem, Legacy.operand, Check.bind_assoc, Check.bind_ok_left]
    rfl

theorem effect_movqXmmLoad (e : Legacy RM) : HasEffect (.movqXmmLoad e) := by
  rcases e with ⟨p, x, q, n | op⟩
  · refine ⟨fun s _ => (fun t v => t.setXmmKeep (Legacy.mk p x q (RM.reg n)).regNum (0#64 ++ v)) s (State.lowAt s (extend (rexB x) n)), fun _ => [],
      .vectorWrite (fun s bs => _) rfl (by intros; rfl) rfl, by intros; rfl, ?_⟩
    intro s
    simp only [exec, execMovqXmmLoad, moveIn, readOperand, Legacy.operand, Check.bind_ok_left]; rfl
  · refine ⟨fun s bs => (fun t v => t.setXmmKeep (Legacy.mk p x q (RM.mem op)).regNum (0#64 ++ v)) s (leValue 64 bs), fun _ => [],
      .vectorWrite (fun s bs => _) rfl (by intros; rfl) rfl, by intros; rfl, ?_⟩
    intro s
    simp only [exec, execMovqXmmLoad, moveIn, readOperand, loadMem, Legacy.operand, Check.bind_assoc, Check.bind_ok_left]
    rfl

theorem effect_vmovqReg (e : Vex RegField) : HasEffect (.vmovqReg e) := by
  refine ⟨fun s _ => (fun t => t.setXmmZero e.regNum (0#64 ++ t.lowAt e.rmNum)) s, fun _ => [],
    .vectorWrite (fun s bs => _) rfl (by intros; rfl) rfl, by intros; rfl, ?_⟩
  intro s
  simp only [exec, execVmovqReg, regMove]; rfl

theorem effect_vmovqLoad (e : Vex MemOp) : HasEffect (.vmovqLoad e) := by
  refine ⟨fun s bs => (fun t (m : QWord) => t.setXmmZero e.regNum (0#64 ++ m)) s (leValue 64 bs), fun _ => [],
    .vectorWrite (fun s bs => _) rfl (by intros; rfl) rfl, by intros; rfl, ?_⟩
  intro s
  simp only [exec, execVmovqLoad, load, loadMem, Check.bind_assoc, Check.bind_ok_left]; rfl

theorem effect_movqXmmStore (e : Legacy RM) : HasEffect (.movqXmmStore e) := by
  rcases e with ⟨p, x, q, n | op⟩
  · refine ⟨fun s _ => (fun t n v => t.setXmmKeep n (0#64 ++ v)) s (extend (rexB x) n) ((fun t => t.lowAt (Legacy.mk p x q (RM.reg n)).regNum) s), fun _ => [],
      .vectorWrite (fun s bs => _) rfl (by intros; rfl) rfl, by intros; rfl, ?_⟩
    intro s
    simp only [exec, execMovqXmmStore, moveOut, writeOperand, Legacy.operand, Check.bind_ok_left]; rfl
  · refine ⟨fun s _ => s, fun s => leBytes 8 ((fun t => t.lowAt (Legacy.mk p x q (RM.mem op)).regNum) s), .nothing,
      by intros; rfl, ?_⟩
    intro s
    simp only [exec, execMovqXmmStore, moveOut, writeOperand, storeMem, Legacy.operand, Check.bind_assoc, Check.bind_ok_left]
    rfl

theorem effect_vmovqStore (e : Vex RM) : HasEffect (.vmovqStore e) := by
  rcases e with ⟨p, x, q, n | op⟩
  · refine ⟨fun s _ => (fun t n v => t.setXmmZero n (0#64 ++ v)) s (extend x.b n) ((fun t => t.lowAt (Vex.mk p x q (RM.reg n)).regNum) s), fun _ => [],
      .vectorWrite (fun s bs => _) rfl (by intros; rfl) rfl, by intros; rfl, ?_⟩
    intro s
    simp only [exec, execVmovqStore, moveOut, writeOperand, Vex.operand, Check.bind_ok_left]; rfl
  · refine ⟨fun s _ => s, fun s => leBytes 8 ((fun t => t.lowAt (Vex.mk p x q (RM.mem op)).regNum) s), .nothing,
      by intros; rfl, ?_⟩
    intro s
    simp only [exec, execVmovqStore, moveOut, writeOperand, storeMem, Vex.operand, Check.bind_assoc, Check.bind_ok_left]
    rfl

/-- Every instruction executes as its check procedure, its access and its effect. -/
theorem exec_effect (i : Instr) : HasEffect i := by
  cases i with
  | movddup e => exact effect_movddup e
  | vmovddupX e => exact effect_vmovddupX e
  | vmovddupY e => exact effect_vmovddupY e
  | movdqaLoad e => exact effect_movdqaLoad e
  | movdqaStore e => exact effect_movdqaStore e
  | vmovdqaXLoad e => exact effect_vmovdqaXLoad e
  | vmovdqaXStore e => exact effect_vmovdqaXStore e
  | vmovdqaYLoad e => exact effect_vmovdqaYLoad e
  | vmovdqaYStore e => exact effect_vmovdqaYStore e
  | movdquLoad e => exact effect_movdquLoad e
  | movdquStore e => exact effect_movdquStore e
  | vmovdquXLoad e => exact effect_vmovdquXLoad e
  | vmovdquXStore e => exact effect_vmovdquXStore e
  | vmovdquYLoad e => exact effect_vmovdquYLoad e
  | vmovdquYStore e => exact effect_vmovdquYStore e
  | movdq2q e => exact effect_movdq2q e
  | movhlps e => exact effect_movhlps e
  | vmovhlps v e => exact effect_vmovhlps v e
  | movhpdLoad e => exact effect_movhpdLoad e
  | movhpdStore e => exact effect_movhpdStore e
  | vmovhpdLoad v e => exact effect_vmovhpdLoad v e
  | vmovhpdStore e => exact effect_vmovhpdStore e
  | movhpsLoad e => exact effect_movhpsLoad e
  | movhpsStore e => exact effect_movhpsStore e
  | vmovhpsLoad v e => exact effect_vmovhpsLoad v e
  | vmovhpsStore e => exact effect_vmovhpsStore e
  | movlhps e => exact effect_movlhps e
  | vmovlhps v e => exact effect_vmovlhps v e
  | movlpdLoad e => exact effect_movlpdLoad e
  | movlpdStore e => exact effect_movlpdStore e
  | vmovlpdLoad v e => exact effect_vmovlpdLoad v e
  | vmovlpdStore e => exact effect_vmovlpdStore e
  | movlpsLoad e => exact effect_movlpsLoad e
  | movlpsStore e => exact effect_movlpsStore e
  | vmovlpsLoad v e => exact effect_vmovlpsLoad v e
  | vmovlpsStore e => exact effect_vmovlpsStore e
  | movmskpd e => exact effect_movmskpd e
  | vmovmskpdX e => exact effect_vmovmskpdX e
  | vmovmskpdY e => exact effect_vmovmskpdY e
  | movmskps e => exact effect_movmskps e
  | vmovmskpsX e => exact effect_vmovmskpsX e
  | vmovmskpsY e => exact effect_vmovmskpsY e
  | movntdqa e => exact effect_movntdqa e
  | vmovntdqaX e => exact effect_vmovntdqaX e
  | vmovntdqaY e => exact effect_vmovntdqaY e
  | movntdq e => exact effect_movntdq e
  | vmovntdqX e => exact effect_vmovntdqX e
  | vmovntdqY e => exact effect_vmovntdqY e
  | movnti32 e => exact effect_movnti32 e
  | movnti64 e => exact effect_movnti64 e
  | movntpd e => exact effect_movntpd e
  | vmovntpdX e => exact effect_vmovntpdX e
  | vmovntpdY e => exact effect_vmovntpdY e
  | movntps e => exact effect_movntps e
  | vmovntpsX e => exact effect_vmovntpsX e
  | vmovntpsY e => exact effect_vmovntpsY e
  | movntq e => exact effect_movntq e
  | movqMmLoad e => exact effect_movqMmLoad e
  | movqMmStore e => exact effect_movqMmStore e
  | movqXmmLoad e => exact effect_movqXmmLoad e
  | vmovqReg e => exact effect_vmovqReg e
  | vmovqLoad e => exact effect_vmovqLoad e
  | movqXmmStore e => exact effect_movqXmmStore e
  | vmovqStore e => exact effect_vmovqStore e

/-- An r/m source operand is no memory operand that is written. -/
theorem Operand.access_read (o : Operand) (n : Nat) (al : AlignRule) :
    (∃ a, o.access .read n al = some a ∧ a.kind = .write) ↔ False := by
  cases o <;> simp [Operand.access]

/-- An r/m destination operand is memory where it is a memory operand that is written. -/
theorem Operand.access_write (o : Operand) (n : Nat) (al : AlignRule) :
    (o.destVector = .memory ↔ ∃ a, o.access .write n al = some a ∧ a.kind = .write) ∧
      (o.destMmx = .memory ↔ ∃ a, o.access .write n al = some a ∧ a.kind = .write) := by
  cases o <;> simp [Operand.access, Operand.destVector, Operand.destMmx]

/-- The destination of an instruction is memory exactly where it has a memory operand that it writes (R53). -/
theorem dest_eq_memory (i : Instr) : i.dest = .memory ↔ ∃ a, i.access = some a ∧ a.kind = .write := by
  cases i <;> simp only [Instr.dest, Instr.access] <;>
    first
      | exact (Operand.access_write _ _ _).1
      | exact (Operand.access_write _ _ _).2
      | simp [Operand.access_read]

/-- What a completed execution has done: the check procedure let pass, the access (if there is one) was to `locs`, and
the next state is the effect, on the state or on the state with the bytes stored, with RIP past the instruction. -/
theorem exec_next_cases {i : Instr} {s t : State} (h : exec i s = .next t) :
    ∃ (f : State → List Byte → State) (b : State → List Byte), EffectKeeps i f ∧ i.gate.check s = .ok () ∧
      ((i.access = none ∧ t = { f s [] with rip := s.nextRip i.len }) ∨
        ∃ a u locs, i.access = some a ∧ memAccess a.kind a.align a.size a.ref s = .ok (u, locs) ∧
          u = { s with draws := u.draws } ∧
            ((a.kind = .read ∧ t = { f u (s.mem.readAll locs) with rip := s.nextRip i.len }) ∨
              (a.kind = .write ∧
                t = { f { u with mem := s.mem.writeAll locs (b s) } [] with rip := s.nextRip i.len }))) := by
  obtain ⟨f, b, k, -, hx⟩ := exec_effect i
  rw [hx, complete_eq_next] at h
  obtain ⟨w, hw, rfl⟩ := h
  obtain ⟨⟨⟩, hc, hw⟩ := Check.bind_eq_ok.1 hw
  refine ⟨f, b, k, hc, ?_⟩
  unfold afterGate at hw
  cases ha : i.access with
  | none =>
    rw [ha] at hw
    cases hw
    exact .inl ⟨rfl, rfl⟩
  | some a =>
    rw [ha] at hw
    obtain ⟨⟨u, locs⟩, hm, hw⟩ := Check.bind_eq_ok.1 hw
    have hu := memAccess_state hm
    have hmem : u.mem = s.mem := by rw [hu]
    refine .inr ⟨a, u, locs, rfl, hm, hu, ?_⟩
    cases hk : a.kind <;> rw [hk] at hw <;> cases hw <;> rw [hmem]
    · exact .inl ⟨rfl, rfl⟩
    · exact .inr ⟨rfl, rfl⟩

/-- What an execution that faults has met: an exception of the check procedure or of the access. -/
theorem exec_fault_cases {i : Instr} {s : State} {f : Fault} (h : exec i s = .fault f) :
    ∃ e, f = exnFault e s.rip ∧
      (i.gate.check s = .raise e ∨
        ∃ a, i.access = some a ∧ memAccess a.kind a.align a.size a.ref s = .raise e) := by
  obtain ⟨g, b, -, -, hx⟩ := exec_effect i
  rw [hx, complete_eq_fault] at h
  obtain ⟨e, he, rfl⟩ := h
  refine ⟨e, rfl, ?_⟩
  rcases Check.bind_eq_raise.1 he with he | ⟨_, -, he⟩
  · exact .inl he
  · unfold afterGate at he
    cases ha : i.access with
    | none => rw [ha] at he; cases he
    | some a =>
      rw [ha] at he
      rcases Check.bind_eq_raise.1 he with he | ⟨_, -, he⟩
      · exact .inr ⟨a, rfl, he⟩
      · cases hk : a.kind <;> rw [hk] at he <;> cases he

end Sys2Proof.Machine
end

