-- ==== Sys2Proof/Laws/PerInstr.lean ====
section
/-! SUPPORT. A family of laws, one per instruction: its encoding has the length that I.len gives (R89). -/

namespace Sys2Proof.Laws.EncodeLength

/-- The encoding of `i` is I.len bytes long. -/
def Statement (i : Instr) : Prop := (encode i).length = i.len

theorem movddup (e : Legacy RM) : Statement (.movddup e) := length_legacyBytes _ _ _
theorem vmovddupX (e : Vex RM) : Statement (.vmovddupX e) := length_vexBytes _ _ _ _ _ _
theorem vmovddupY (e : Vex RM) : Statement (.vmovddupY e) := length_vexBytes _ _ _ _ _ _
theorem movdqaLoad (e : Legacy RM) : Statement (.movdqaLoad e) := length_legacyBytes _ _ _
theorem movdqaStore (e : Legacy RM) : Statement (.movdqaStore e) := length_legacyBytes _ _ _
theorem vmovdqaXLoad (e : Vex RM) : Statement (.vmovdqaXLoad e) := length_vexBytes _ _ _ _ _ _
theorem vmovdqaXStore (e : Vex RM) : Statement (.vmovdqaXStore e) := length_vexBytes _ _ _ _ _ _
theorem vmovdqaYLoad (e : Vex RM) : Statement (.vmovdqaYLoad e) := length_vexBytes _ _ _ _ _ _
theorem vmovdqaYStore (e : Vex RM) : Statement (.vmovdqaYStore e) := length_vexBytes _ _ _ _ _ _
theorem movdquLoad (e : Legacy RM) : Statement (.movdquLoad e) := length_legacyBytes _ _ _
theorem movdquStore (e : Legacy RM) : Statement (.movdquStore e) := length_legacyBytes _ _ _
theorem vmovdquXLoad (e : Vex RM) : Statement (.vmovdquXLoad e) := length_vexBytes _ _ _ _ _ _
theorem vmovdquXStore (e : Vex RM) : Statement (.vmovdquXStore e) := length_vexBytes _ _ _ _ _ _
theorem vmovdquYLoad (e : Vex RM) : Statement (.vmovdquYLoad e) := length_vexBytes _ _ _ _ _ _
theorem vmovdquYStore (e : Vex RM) : Statement (.vmovdquYStore e) := length_vexBytes _ _ _ _ _ _
theorem movdq2q (e : Legacy RegField) : Statement (.movdq2q e) := length_legacyBytes _ _ _
theorem movhlps (e : Legacy RegField) : Statement (.movhlps e) := length_legacyBytes _ _ _
theorem vmovhlps (v : RegNum) (e : Vex RegField) : Statement (.vmovhlps v e) := length_vexBytes _ _ _ _ _ _
theorem movhpdLoad (e : Legacy MemOp) : Statement (.movhpdLoad e) := length_legacyBytes _ _ _
theorem movhpdStore (e : Legacy MemOp) : Statement (.movhpdStore e) := length_legacyBytes _ _ _
theorem vmovhpdLoad (v : RegNum) (e : Vex MemOp) : Statement (.vmovhpdLoad v e) := length_vexBytes _ _ _ _ _ _
theorem vmovhpdStore (e : Vex MemOp) : Statement (.vmovhpdStore e) := length_vexBytes _ _ _ _ _ _
theorem movhpsLoad (e : Legacy MemOp) : Statement (.movhpsLoad e) := length_legacyBytes _ _ _
theorem movhpsStore (e : Legacy MemOp) : Statement (.movhpsStore e) := length_legacyBytes _ _ _
theorem vmovhpsLoad (v : RegNum) (e : Vex MemOp) : Statement (.vmovhpsLoad v e) := length_vexBytes _ _ _ _ _ _
theorem vmovhpsStore (e : Vex MemOp) : Statement (.vmovhpsStore e) := length_vexBytes _ _ _ _ _ _
theorem movlhps (e : Legacy RegField) : Statement (.movlhps e) := length_legacyBytes _ _ _
theorem vmovlhps (v : RegNum) (e : Vex RegField) : Statement (.vmovlhps v e) := length_vexBytes _ _ _ _ _ _
theorem movlpdLoad (e : Legacy MemOp) : Statement (.movlpdLoad e) := length_legacyBytes _ _ _
theorem movlpdStore (e : Legacy MemOp) : Statement (.movlpdStore e) := length_legacyBytes _ _ _
theorem vmovlpdLoad (v : RegNum) (e : Vex MemOp) : Statement (.vmovlpdLoad v e) := length_vexBytes _ _ _ _ _ _
theorem vmovlpdStore (e : Vex MemOp) : Statement (.vmovlpdStore e) := length_vexBytes _ _ _ _ _ _
theorem movlpsLoad (e : Legacy MemOp) : Statement (.movlpsLoad e) := length_legacyBytes _ _ _
theorem movlpsStore (e : Legacy MemOp) : Statement (.movlpsStore e) := length_legacyBytes _ _ _
theorem vmovlpsLoad (v : RegNum) (e : Vex MemOp) : Statement (.vmovlpsLoad v e) := length_vexBytes _ _ _ _ _ _
theorem vmovlpsStore (e : Vex MemOp) : Statement (.vmovlpsStore e) := length_vexBytes _ _ _ _ _ _
theorem movmskpd (e : Legacy RegField) : Statement (.movmskpd e) := length_legacyBytes _ _ _
theorem vmovmskpdX (e : Vex RegField) : Statement (.vmovmskpdX e) := length_vexBytes _ _ _ _ _ _
theorem vmovmskpdY (e : Vex RegField) : Statement (.vmovmskpdY e) := length_vexBytes _ _ _ _ _ _
theorem movmskps (e : Legacy RegField) : Statement (.movmskps e) := length_legacyBytes _ _ _
theorem vmovmskpsX (e : Vex RegField) : Statement (.vmovmskpsX e) := length_vexBytes _ _ _ _ _ _
theorem vmovmskpsY (e : Vex RegField) : Statement (.vmovmskpsY e) := length_vexBytes _ _ _ _ _ _
theorem movntdqa (e : Legacy MemOp) : Statement (.movntdqa e) := length_legacyBytes _ _ _
theorem vmovntdqaX (e : Vex MemOp) : Statement (.vmovntdqaX e) := length_vexBytes _ _ _ _ _ _
theorem vmovntdqaY (e : Vex MemOp) : Statement (.vmovntdqaY e) := length_vexBytes _ _ _ _ _ _
theorem movntdq (e : Legacy MemOp) : Statement (.movntdq e) := length_legacyBytes _ _ _
theorem vmovntdqX (e : Vex MemOp) : Statement (.vmovntdqX e) := length_vexBytes _ _ _ _ _ _
theorem vmovntdqY (e : Vex MemOp) : Statement (.vmovntdqY e) := length_vexBytes _ _ _ _ _ _
theorem movnti32 (e : Legacy MemOp) : Statement (.movnti32 e) := length_legacyBytes _ _ _
theorem movnti64 (e : Legacy MemOp) : Statement (.movnti64 e) := length_legacyBytes _ _ _
theorem movntpd (e : Legacy MemOp) : Statement (.movntpd e) := length_legacyBytes _ _ _
theorem vmovntpdX (e : Vex MemOp) : Statement (.vmovntpdX e) := length_vexBytes _ _ _ _ _ _
theorem vmovntpdY (e : Vex MemOp) : Statement (.vmovntpdY e) := length_vexBytes _ _ _ _ _ _
theorem movntps (e : Legacy MemOp) : Statement (.movntps e) := length_legacyBytes _ _ _
theorem vmovntpsX (e : Vex MemOp) : Statement (.vmovntpsX e) := length_vexBytes _ _ _ _ _ _
theorem vmovntpsY (e : Vex MemOp) : Statement (.vmovntpsY e) := length_vexBytes _ _ _ _ _ _
theorem movntq (e : Legacy MemOp) : Statement (.movntq e) := length_legacyBytes _ _ _
theorem movqMmLoad (e : Legacy RM) : Statement (.movqMmLoad e) := length_legacyBytes _ _ _
theorem movqMmStore (e : Legacy RM) : Statement (.movqMmStore e) := length_legacyBytes _ _ _
theorem movqXmmLoad (e : Legacy RM) : Statement (.movqXmmLoad e) := length_legacyBytes _ _ _
theorem vmovqReg (e : Vex RegField) : Statement (.vmovqReg e) := length_vexBytes _ _ _ _ _ _
theorem vmovqLoad (e : Vex MemOp) : Statement (.vmovqLoad e) := length_vexBytes _ _ _ _ _ _
theorem movqXmmStore (e : Legacy RM) : Statement (.movqXmmStore e) := length_legacyBytes _ _ _
theorem vmovqStore (e : Vex RM) : Statement (.vmovqStore e) := length_vexBytes _ _ _ _ _ _

end Sys2Proof.Laws.EncodeLength
end

