-- ==== Sys2Proof/Laws/Moves.lean ====
section
/-! SUPPORT. For the result statements: each shape of a move run where its checks let pass, the frame of each register
write, and what is left to show of a meaning for MovesVector, LoadsVector and StoresTo. -/

namespace Sys2Proof

/-- The encoding of an instruction is I.len bytes long (R89). -/
theorem length_encode (i : Instr) : (encode i).length = i.len := by
  cases i <;> first | exact length_legacyBytes _ _ _ | exact length_vexBytes _ _ _ _ _ _

end Sys2Proof

namespace Sys2Proof.Machine

/-! ### The check procedures -/

/-- A check procedure lets pass under its condition (R270 to R274). -/
theorem Gate.check_of_ready {g : Gate} {s : State} (h : g.Ready s) : g.check s = .ok () := by
  cases g <;>
    simp_all [Gate.Ready, Gate.check, State.SseReady, State.VexReady, State.MmxReady, State.MovntiReady,
      State.Movdq2qReady, checkSSE, checkVEX, checkMMX, checkMOVNTI, checkMOVDQ2Q, failIf]

/-- Where a VEX row of AVX is enabled, vector registers are 256 bits wide (R24). -/
theorem vlmax_of_ready {s : State} (h : (Gate.vex .avx).Ready s) : s.vlmax = 256 :=
  State.vlmax_of_avx h.2.2.1

/-! ### The shapes of a move, run -/

section
variable {w len : Nat} {al : AlignRule} {chk : State → Check Unit} {s t : State} {r : MemRef} {n : RegNum}
  {v : BitVec w} {rd : State → RegNum → BitVec w} {wr : State → BitVec w → State} {src : State → BitVec w}
  {wrn : State → RegNum → BitVec w → State} {post f : State → State}

theorem regMove_run (h : chk s = .ok ()) : regMove chk len f s = .next { f s with rip := s.nextRip len } :=
  regMove_eq_next.2 ⟨h, rfl⟩

theorem moveIn_reg_run (h : chk s = .ok ()) :
    moveIn chk len al rd (.reg n) wr s = .next { wr s (rd s n) with rip := s.nextRip len } :=
  moveIn_eq_next.2 ⟨h, _, s, rfl, rfl⟩

theorem moveIn_mem_run (h : chk s = .ok ()) (hl : loadMem w al r s = .ok (v, s)) :
    moveIn chk len al rd (.mem r) wr s = .next { wr s v with rip := s.nextRip len } :=
  moveIn_eq_next.2 ⟨h, _, s, hl, rfl⟩

theorem moveOut_reg_run (h : chk s = .ok ()) :
    moveOut chk len al src (.reg n) wrn post s = .next { post (wrn s n (src s)) with rip := s.nextRip len } :=
  moveOut_eq_next.2 ⟨h, _, rfl, rfl⟩

theorem moveOut_mem_run (h : chk s = .ok ()) (hs : storeMem al r (src s) s = .ok t) :
    moveOut chk len al src (.mem r) wrn post s = .next { post t with rip := s.nextRip len } :=
  moveOut_eq_next.2 ⟨h, _, hs, rfl⟩

theorem load_run (h : chk s = .ok ()) (hl : loadMem w al r s = .ok (v, s)) :
    load chk al r wr s = .next { wr s v with rip := s.nextRip r.len } :=
  load_eq_next.2 ⟨h, _, s, hl, rfl⟩

theorem store_run (h : chk s = .ok ()) (hs : storeMem al r (src s) s = .ok t) :
    store chk al r src post s = .next { post t with rip := s.nextRip r.len } :=
  store_eq_next.2 ⟨h, _, hs, rfl⟩

end

/-! ### The frames of the register writes -/

/-- A legacy write: bits 127:0 change, the bits above are kept, and nothing else changes but RIP. -/
theorem setXmmKeep_frame (s : State) (d : RegNum) (v : DQWord) (ip : QWord) :
    ({ s.setXmmKeep d v with rip := ip } : State).ymmAt d = s.upperAt d ++ v ∧
      OnlyVector d s { s.setXmmKeep d v with rip := ip } := by
  refine ⟨?_, ?_, rfl, rfl, rfl, rfl, rfl, ⟨rfl, rfl, rfl, rfl, rfl, rfl, rfl, rfl, rfl⟩, fun _ => rfl⟩
  · show (s.setXmmKeep d v).ymmAt d = _
    rw [State.ymmAt_setXmmKeep, if_pos rfl]
    rfl
  · intro n hn
    show (s.setXmmKeep d v).ymmAt n = _
    rw [State.ymmAt_setXmmKeep, if_neg (Ne.symm hn)]

/-- A VEX.128 write: the bits above are zeroed. -/
theorem setXmmZero_frame {s : State} (hv : s.vlmax = 256) (d : RegNum) (v : DQWord) (ip : QWord) :
    ({ s.setXmmZero d v with rip := ip } : State).ymmAt d = 0#128 ++ v ∧
      OnlyVector d s { s.setXmmZero d v with rip := ip } := by
  refine ⟨?_, ?_, rfl, rfl, rfl, rfl, rfl, ⟨rfl, rfl, rfl, rfl, rfl, rfl, rfl, rfl, rfl⟩, fun _ => rfl⟩
  · show (s.setXmmZero d v).ymmAt d = _
    rw [State.ymmAt_setXmmZero _ _ _ _ hv, if_pos rfl]
  · intro n hn
    show (s.setXmmZero d v).ymmAt n = _
    rw [State.ymmAt_setXmmZero _ _ _ _ hv, if_neg (Ne.symm hn)]

/-- A VEX.256 write. -/
theorem setYmm_frame {s : State} (hv : s.vlmax = 256) (d : RegNum) (v : YWord) (ip : QWord) :
    ({ s.setYmm d v with rip := ip } : State).ymmAt d = v ∧ OnlyVector d s { s.setYmm d v with rip := ip } := by
  refine ⟨?_, ?_, rfl, rfl, rfl, rfl, rfl, ⟨rfl, rfl, rfl, rfl, rfl, rfl, rfl, rfl, rfl⟩, fun _ => rfl⟩
  · show (s.setYmm d v).ymmAt d = _
    rw [State.ymmAt_setYmm, if_pos rfl, if_pos hv]
  · intro n hn
    show (s.setYmm d v).ymmAt n = _
    rw [State.ymmAt_setYmm, if_neg (Ne.symm hn)]

/-- A write of memory at `locs`. -/
theorem writeAll_frame (s : State) (locs : List Nat) (bs : List Byte) (ip : QWord) :
    OnlyStored locs s { s with mem := s.mem.writeAll locs bs, rip := ip } :=
  ⟨fun _ h => Memory.read_writeAll_of_not_mem _ _ h, rfl, rfl, rfl, rfl,
    ⟨rfl, rfl, rfl, rfl, rfl, rfl, rfl, rfl, rfl⟩⟩

/-! ### Results -/

/-- For MovesVector: the next state of the meaning, and the frame of its write. -/
theorem MovesVector.of_next {i : Instr} {d : RegNum} {result : State → YWord} (f : State → State)
    (hx : ∀ s, i.gate.check s = .ok () → exec i s = .next { f s with rip := s.nextRip i.len })
    (hf : ∀ s, i.gate.Ready s → ∀ ip,
      ({ f s with rip := ip } : State).ymmAt d = result s ∧ OnlyVector d s { f s with rip := ip }) :
    MovesVector i d result := by
  intro s hr
  exact ⟨_, hx s (Gate.check_of_ready hr), (hf s hr _).1, by rw [length_encode], (hf s hr _).2⟩

/-- For LoadsVector: the same, of the value loaded. -/
theorem LoadsVector.of_next {w : Nat} {i : Instr} {al : AlignRule} {r : MemRef} {d : RegNum}
    {result : State → BitVec w → YWord} (f : State → BitVec w → State)
    (hx : ∀ s v, i.gate.check s = .ok () → loadMem w al r s = .ok (v, s) →
      exec i s = .next { f s v with rip := s.nextRip i.len })
    (hf : ∀ s v, i.gate.Ready s → ∀ ip,
      ({ f s v with rip := ip } : State).ymmAt d = result s v ∧ OnlyVector d s { f s v with rip := ip }) :
    LoadsVector i al r d result := by
  intro s locs hr ha
  exact ⟨_, hx s _ (Gate.check_of_ready hr) (loadMem_eq_ok.2 ⟨locs, ha.memAccess, rfl⟩), (hf s _ hr _).1,
    by rw [length_encode], (hf s _ hr _).2⟩

/-- For StoresTo: the next state of the meaning, and that what follows the store (nothing, or the MMX transition)
keeps memory and all that OnlyStored speaks of, and leaves the tags as it should. -/
theorem StoresTo.of_next {w : Nat} {i : Instr} {al : AlignRule} {r : MemRef} {v : State → BitVec w}
    {tags : State → State → Prop} (post : State → State)
    (hm : ∀ t, (post t).mem = t.mem)
    (ht : ∀ (s : State) (mem : Memory) (ip : QWord), tags s { post { s with mem := mem } with rip := ip })
    (ho : ∀ (s t : State) (locs : List Nat) (ip : QWord), OnlyStored locs s t →
      OnlyStored locs s { post t with rip := ip })
    (hx : ∀ s t, i.gate.check s = .ok () → storeMem al r (v s) s = .ok t →
      exec i s = .next { post t with rip := s.nextRip i.len }) : StoresTo i al r v tags := by
  intro s locs hr hw ha
  have hs : storeMem al r (v s) s = .ok { s with mem := s.mem.writeAll locs (leBytes (w / 8) (v s)) } :=
    storeMem_eq_ok.2 ⟨s, locs, ha.memAccess, rfl⟩
  refine ⟨_, hx s _ (Gate.check_of_ready hr) hs, ?_, by rw [length_encode], ht s _ _,
    ho s _ locs _ (writeAll_frame s locs _ s.rip)⟩
  intro hn
  show Memory.readAll (State.mem (post _)) locs = _
  rw [hm]
  have hlen := ha.2.2.2.1.length_eq
  rw [length_byteAddrs] at hlen
  exact Memory.readAll_writeAll hw hn ha.2.2.2.1.lt (by simp [hlen])

end Sys2Proof.Machine
end

