-- ==== Sys2Proof/Tests/Slice0.lean ====
section
/-! SUPPORT. The model's own tests: what WellFormed refuses, a word of the spec decoded for every constructor, one step
of every instruction, and for every obligation with hypotheses a state and operands that meet them. -/

namespace Sys2Proof.Tests

open Sys2Proof Sys2Proof.Machine

set_option maxRecDepth 100000

/-! ### WellFormed: for each of its checks, a term it refuses -/

/-- A form that the checks below spoil in one place. -/
def plain (ps : List Prefix) (op : MemOp) : Legacy RM := ⟨ps, none, 1, .mem op⟩

theorem test_wf_accepts : wfLegacy .mode64 .p66 (plain [.opSize, .seg .fs, .addrSize] (.base 0 .none)) = true := by decide
theorem test_wf_two_segments :
    wfLegacy .mode64 .p66 (plain [.opSize, .seg .fs, .seg .gs] (.base 0 .none)) = false := by decide
theorem test_wf_two_address_sizes :
    wfLegacy .mode64 .p66 (plain [.opSize, .addrSize, .addrSize] (.base 0 .none)) = false := by decide
theorem test_wf_mandatory_missing : wfLegacy .mode64 .p66 (plain [] (.base 0 .none)) = false := by decide
theorem test_wf_mandatory_twice : wfLegacy .mode64 .p66 (plain [.opSize, .opSize] (.base 0 .none)) = false := by decide
theorem test_wf_other_mandatory : wfLegacy .mode64 .none (plain [.rep] (.base 0 .none)) = false := by decide
theorem test_wf_lock : wfLegacy .mode64 .p66 (plain [.lock, .opSize] (.base 0 .none)) = false := by decide
theorem test_wf_rex_mode32 :
    wfLegacy .mode32 .none ⟨[], some ⟨false, false, false, false⟩, 1, .reg 2⟩ = false := by decide
theorem test_wf_base_is_sib : wfMem false (.base 4 .none) = false := by decide
theorem test_wf_base_is_disp32 : wfMem false (.base 5 .none) = false := by decide
theorem test_wf_sib_base_without_disp : wfMem false (.sib 0 0 5 .none) = false := by decide
theorem test_wf_wide_forms_under_16 :
    wfMem true (.base 0 .none) = false ∧ wfMem true (.sib 0 0 0 .none) = false ∧
      wfMem true (.sibNoBase 0 0 0) = false ∧ wfMem true (.disp32 0) = false := by decide
theorem test_wf_16_forms_elsewhere :
    wfMem false (.base16 0 .none) = false ∧ wfMem false (.disp16 0) = false := by decide
theorem test_wf_base16_is_disp16 : wfMem true (.base16 6 .none) = false := by decide
theorem test_wf_two_byte_vex_map : wfVexForm .mode64 .m0F38 (.two false) = false := by decide
theorem test_wf_vex_bits_mode32 :
    wfVexForm .mode32 .m0F (.two true) = false ∧ wfVexForm .mode32 .m0F (.three true false false false) = false ∧
      wfVexForm .mode32 .m0F (.three false true false false) = false ∧
        wfVexForm .mode32 .m0F (.three false false true false) = false := by decide
theorem test_wf_vvvv_mode32 : wfVex .mode32 .m0F 8 ⟨[], .two false, 1, .reg 2⟩ = false := by decide
theorem test_wf_vex_prefix : wfVex .mode64 .m0F 0 ⟨[.opSize], .two false, 1, .reg 2⟩ = false := by decide
theorem test_wf_movnti32_w :
    (Instr.movnti32 ⟨[], some ⟨true, false, false, false⟩, 1, .base 0 .none⟩).wf .mode64 = false := by decide
theorem test_wf_movnti64_no_w : (Instr.movnti64 ⟨[], none, 1, .base 0 .none⟩).wf .mode64 = false := by decide

/-! ### The states the effects start from: S0 of 95_test_vectors.md 2.0, with its bytes at 1000H where they are read
(those at 2000H and 3000H being 0 here) -/

/-- Un of 95_test_vectors.md: the byte 11H * n, sixteen times. -/
def upper (n : Nat) : DQWord := BitVec.ofNat 128 (0x11111111111111111111111111111111 * n)

/-- S0, with no byte of memory listed. -/
def start : State :=
  { State.reset with
    rip := 0x400000
    gpr := #v[0x1000, 2, 0, 0x1000, 0x3000, 0x3000, 0x2000, 0x1000, 0x1000, 0xFFFFFFFFFFFFFFFF, 0, 0, 0x2000, 0, 0, 0]
    ymm :=
      #v[0, upper 1 ++ 0x8899AABBCCDDEEFF0011223344556677#128, upper 2 ++ 0x0F0E0D0C0B0A09080706050403020100#128,
        upper 3 ++ 0xF1E2D3C4B5A69788796A5B4C3D2E1F00#128, upper 4 ++ 0x80000000000000017FFFFFFF80000000#128,
        upper 5 ++ 0#128, upper 6 ++ 0#128, upper 7 ++ 0#128, upper 8 ++ 0#128, upper 9 ++ 0#128, upper 10 ++ 0#128,
        upper 11 ++ 0#128, upper 12 ++ 0#128, upper 13 ++ 0#128, upper 14 ++ 0#128,
        upper 15 ++ 0xFFEEDDCCBBAA99887766554433221100#128]
    x87 := #v[0, 0x1111111111111111, 0x2222222222222222, 0, 0, 0, 0, 0]
    top := 5
    ftw := 0xFFFF }

/-- S0: the byte at 1000H + i is i. -/
def filled : State := { start with mem := (List.range 0x37).map fun i => (0x1001 + i, BitVec.ofNat 8 (i + 1)) }

/-- S0 with the quadwords of vector K5 in YMM2. -/
def signs : State :=
  { start with
    ymm := start.ymm.set 2
      (0x0000000080000000#64 ++ 0xFFFFFFFFFFFFFFFF#64 ++ 0x7FFFFFFF80000000#64 ++ 0x8000000000000001#64) }

/-- One step at these bytes, loaded as the program. -/
def run (s : State) (bs : List Byte) : Host.Outcome State Fault Refusal :=
  step (s.loadInstruction (bs ++ List.replicate (15 - bs.length) 0))

/-- A vector register of the next state. -/
def ymmAfter (n : RegNum) (o : Host.Outcome State Fault Refusal) : Option YWord :=
  match o with
  | .next t => some (t.ymmAt n)
  | .fault _ => none
  | .refused _ => none

/-- A general-purpose register of the next state. -/
def gprAfter (n : RegNum) (o : Host.Outcome State Fault Refusal) : Option QWord :=
  match o with
  | .next t => some (t.gprAt n)
  | .fault _ => none
  | .refused _ => none

/-- An x87 data register, FTW and TOP of the next state. -/
def mmxAfter (n : MmxNum) (o : Host.Outcome State Fault Refusal) : Option (BitVec 80 × BitVec 16 × BitVec 3) :=
  match o with
  | .next t => some (t.x87.get n.toFin, t.ftw, t.top)
  | .fault _ => none
  | .refused _ => none

/-- Bytes of memory of the next state. -/
def bytesAfter (a n : Nat) (o : Host.Outcome State Fault Refusal) : Option (List Byte) :=
  match o with
  | .next t => some (t.mem.readAll ((List.range n).map (a + ·)))
  | .fault _ => none
  | .refused _ => none

/-! ### Decoding: for every constructor, a word of the spec (the Examples of 40 to 46, or 95_test_vectors.md) -/

theorem test_decode_movddup :
    decode .mode64 [0xF2, 0x0F, 0x12, 0xCA] = .instr (.movddup ⟨[.repne], none, 1, .reg 2⟩) := by decide
theorem test_decode_vmovddupX :
    decode .mode64 [0xC5, 0xFB, 0x12, 0xCA] = .instr (.vmovddupX ⟨[], .two false, 1, .reg 2⟩) := by decide
theorem test_decode_vmovddupY :
    decode .mode64 [0xC5, 0xFF, 0x12, 0xDC] = .instr (.vmovddupY ⟨[], .two false, 3, .reg 4⟩) := by decide
theorem test_decode_movdqaLoad :
    decode .mode64 [0x66, 0x0F, 0x6F, 0x07] =
      .instr (.movdqaLoad ⟨[.opSize], none, 0, .mem (.base 7 .none)⟩) := by decide
theorem test_decode_movdqaStore :
    decode .mode64 [0x66, 0x0F, 0x7F, 0x0E] =
      .instr (.movdqaStore ⟨[.opSize], none, 1, .mem (.base 6 .none)⟩) := by decide
theorem test_decode_vmovdqaXLoad :
    decode .mode64 [0xC4, 0xE1, 0xF9, 0x6F, 0x08] =
      .instr (.vmovdqaXLoad ⟨[], .three false false false true, 1, .mem (.base 0 .none)⟩) := by decide
theorem test_decode_vmovdqaXStore :
    decode .mode64 [0xC5, 0xF9, 0x7F, 0x08] =
      .instr (.vmovdqaXStore ⟨[], .two false, 1, .mem (.base 0 .none)⟩) := by decide
theorem test_decode_vmovdqaYLoad :
    decode .mode64 [0xC4, 0x41, 0x7D, 0x6F, 0xC1] =
      .instr (.vmovdqaYLoad ⟨[], .three true false true false, 0, .reg 1⟩) := by decide
theorem test_decode_vmovdqaYStore :
    decode .mode64 [0xC5, 0x7D, 0x7F, 0x3C, 0x24] =
      .instr (.vmovdqaYStore ⟨[], .two true, 7, .mem (.sib 0 4 4 .none)⟩) := by decide
theorem test_decode_movdquLoad :
    decode .mode64 [0xF3, 0x45, 0x0F, 0x6F, 0x08] =
      .instr (.movdquLoad ⟨[.rep], some ⟨false, true, false, true⟩, 1, .mem (.base 0 .none)⟩) := by decide
theorem test_decode_movdquStore :
    decode .mode64 [0xF3, 0x0F, 0x7F, 0x0D, 0x00, 0x01, 0x00, 0x00] =
      .instr (.movdquStore ⟨[.rep], none, 1, .mem (.disp32 0x100)⟩) := by decide
theorem test_decode_vmovdquXLoad :
    decode .mode64 [0xC5, 0xFA, 0x6F, 0x4B, 0x01] =
      .instr (.vmovdquXLoad ⟨[], .two false, 1, .mem (.base 3 (.d8 1))⟩) := by decide
theorem test_decode_vmovdquXStore :
    decode .mode64 [0xC5, 0xFA, 0x7F, 0x4B, 0x01] =
      .instr (.vmovdquXStore ⟨[], .two false, 1, .mem (.base 3 (.d8 1))⟩) := by decide
theorem test_decode_vmovdquYLoad :
    decode .mode64 [0xC4, 0x01, 0x7E, 0x6F, 0x64, 0x91, 0x80] =
      .instr (.vmovdquYLoad ⟨[], .three true true true false, 4, .mem (.sib 2 2 1 (.d8 0x80))⟩) := by decide
theorem test_decode_vmovdquYStore :
    decode .mode64 [0xC5, 0xFE, 0x7F, 0x17] =
      .instr (.vmovdquYStore ⟨[], .two false, 2, .mem (.base 7 .none)⟩) := by decide
theorem test_decode_movdq2q :
    decode .mode64 [0xF2, 0x41, 0x0F, 0xD6, 0xCF] =
      .instr (.movdq2q ⟨[.repne], some ⟨false, false, false, true⟩, 1, 7⟩) := by decide
theorem test_decode_movhlps : decode .mode64 [0x0F, 0x12, 0xC8] = .instr (.movhlps ⟨[], none, 1, 0⟩) := by decide
theorem test_decode_vmovhlps :
    decode .mode64 [0xC5, 0xE8, 0x12, 0xCB] = .instr (.vmovhlps 2 ⟨[], .two false, 1, 3⟩) := by decide
theorem test_decode_movhpdLoad :
    decode .mode64 [0x66, 0x0F, 0x16, 0x08] = .instr (.movhpdLoad ⟨[.opSize], none, 1, .base 0 .none⟩) := by decide
theorem test_decode_movhpdStore :
    decode .mode64 [0x66, 0x0F, 0x17, 0x08] = .instr (.movhpdStore ⟨[.opSize], none, 1, .base 0 .none⟩) := by decide
theorem test_decode_vmovhpdLoad :
    decode .mode64 [0xC5, 0x61, 0x16, 0x54, 0xC8, 0x10] =
      .instr (.vmovhpdLoad 3 ⟨[], .two true, 2, .sib 3 1 0 (.d8 0x10)⟩) := by decide
theorem test_decode_vmovhpdStore :
    decode .mode64 [0xC5, 0xF9, 0x17, 0x08] = .instr (.vmovhpdStore ⟨[], .two false, 1, .base 0 .none⟩) := by decide
theorem test_decode_movhpsLoad :
    decode .mode64 [0x0F, 0x16, 0x08] = .instr (.movhpsLoad ⟨[], none, 1, .base 0 .none⟩) := by decide
theorem test_decode_movhpsStore :
    decode .mode64 [0x0F, 0x17, 0x08] = .instr (.movhpsStore ⟨[], none, 1, .base 0 .none⟩) := by decide
theorem test_decode_vmovhpsLoad :
    decode .mode64 [0xC5, 0xF0, 0x16, 0x10] = .instr (.vmovhpsLoad 1 ⟨[], .two false, 2, .base 0 .none⟩) := by decide
theorem test_decode_vmovhpsStore :
    decode .mode64 [0xC5, 0xF8, 0x17, 0x08] = .instr (.vmovhpsStore ⟨[], .two false, 1, .base 0 .none⟩) := by decide
theorem test_decode_movlhps : decode .mode64 [0x0F, 0x16, 0xCA] = .instr (.movlhps ⟨[], none, 1, 2⟩) := by decide
theorem test_decode_vmovlhps :
    decode .mode64 [0xC5, 0xE8, 0x16, 0xCB] = .instr (.vmovlhps 2 ⟨[], .two false, 1, 3⟩) := by decide
theorem test_decode_movlpdLoad :
    decode .mode64 [0x66, 0x0F, 0x12, 0x08] = .instr (.movlpdLoad ⟨[.opSize], none, 1, .base 0 .none⟩) := by decide
theorem test_decode_movlpdStore :
    decode .mode64 [0x66, 0x0F, 0x13, 0x4D, 0x00] =
      .instr (.movlpdStore ⟨[.opSize], none, 1, .base 5 (.d8 0)⟩) := by decide
theorem test_decode_vmovlpdLoad :
    decode .mode64 [0xC5, 0xF1, 0x12, 0x10] = .instr (.vmovlpdLoad 1 ⟨[], .two false, 2, .base 0 .none⟩) := by decide
theorem test_decode_vmovlpdStore :
    decode .mode64 [0xC5, 0xF9, 0x13, 0x08] = .instr (.vmovlpdStore ⟨[], .two false, 1, .base 0 .none⟩) := by decide
theorem test_decode_movlpsLoad :
    decode .mode32 [0x67, 0x0F, 0x12, 0x0D] =
      .instr (.movlpsLoad ⟨[.addrSize], none, 1, .base16 5 .none⟩) := by decide
theorem test_decode_movlpsStore :
    decode .mode64 [0x0F, 0x13, 0x08] = .instr (.movlpsStore ⟨[], none, 1, .base 0 .none⟩) := by decide
theorem test_decode_vmovlpsLoad :
    decode .mode64 [0xC5, 0xF0, 0x12, 0x10] = .instr (.vmovlpsLoad 1 ⟨[], .two false, 2, .base 0 .none⟩) := by decide
theorem test_decode_vmovlpsStore :
    decode .mode64 [0xC5, 0xF8, 0x13, 0x08] = .instr (.vmovlpsStore ⟨[], .two false, 1, .base 0 .none⟩) := by decide
theorem test_decode_movmskpd :
    decode .mode64 [0x66, 0x44, 0x0F, 0x50, 0xCC] =
      .instr (.movmskpd ⟨[.opSize], some ⟨false, true, false, false⟩, 1, 4⟩) := by decide
theorem test_decode_vmovmskpdX :
    decode .mode64 [0xC5, 0xF9, 0x50, 0xC1] = .instr (.vmovmskpdX ⟨[], .two false, 0, 1⟩) := by decide
theorem test_decode_vmovmskpdY :
    decode .mode64 [0xC5, 0xFD, 0x50, 0xC2] = .instr (.vmovmskpdY ⟨[], .two false, 0, 2⟩) := by decide
theorem test_decode_movmskps : decode .mode64 [0x0F, 0x50, 0xC1] = .instr (.movmskps ⟨[], none, 0, 1⟩) := by decide
theorem test_decode_vmovmskpsX :
    decode .mode64 [0xC5, 0xF8, 0x50, 0xCA] = .instr (.vmovmskpsX ⟨[], .two false, 1, 2⟩) := by decide
theorem test_decode_vmovmskpsY :
    decode .mode64 [0xC5, 0xFC, 0x50, 0xCA] = .instr (.vmovmskpsY ⟨[], .two false, 1, 2⟩) := by decide
theorem test_decode_movntdqa :
    decode .mode64 [0x66, 0x0F, 0x38, 0x2A, 0x08] =
      .instr (.movntdqa ⟨[.opSize], none, 1, .base 0 .none⟩) := by decide
theorem test_decode_vmovntdqaX :
    decode .mode64 [0xC4, 0xE2, 0x79, 0x2A, 0x08] =
      .instr (.vmovntdqaX ⟨[], .three false false false false, 1, .base 0 .none⟩) := by decide
theorem test_decode_vmovntdqaY :
    decode .mode64 [0xC4, 0xE2, 0x7D, 0x2A, 0x08] =
      .instr (.vmovntdqaY ⟨[], .three false false false false, 1, .base 0 .none⟩) := by decide
theorem test_decode_movntdq :
    decode .mode64 [0x66, 0x0F, 0xE7, 0x08] = .instr (.movntdq ⟨[.opSize], none, 1, .base 0 .none⟩) := by decide
theorem test_decode_vmovntdqX :
    decode .mode64 [0xC5, 0xF9, 0xE7, 0x08] = .instr (.vmovntdqX ⟨[], .two false, 1, .base 0 .none⟩) := by decide
theorem test_decode_vmovntdqY :
    decode .mode64 [0xC5, 0xFD, 0xE7, 0x08] = .instr (.vmovntdqY ⟨[], .two false, 1, .base 0 .none⟩) := by decide
theorem test_decode_movnti32 :
    decode .mode64 [0x45, 0x0F, 0xC3, 0x0C, 0x24] =
      .instr (.movnti32 ⟨[], some ⟨false, true, false, true⟩, 1, .sib 0 4 4 .none⟩) := by decide
theorem test_decode_movnti64 :
    decode .mode64 [0x48, 0x0F, 0xC3, 0x06] =
      .instr (.movnti64 ⟨[], some ⟨true, false, false, false⟩, 0, .base 6 .none⟩) := by decide
theorem test_decode_movntpd :
    decode .mode64 [0x66, 0x0F, 0x2B, 0x08] = .instr (.movntpd ⟨[.opSize], none, 1, .base 0 .none⟩) := by decide
theorem test_decode_vmovntpdX :
    decode .mode64 [0xC5, 0xF9, 0x2B, 0x08] = .instr (.vmovntpdX ⟨[], .two false, 1, .base 0 .none⟩) := by decide
theorem test_decode_vmovntpdY :
    decode .mode64 [0xC5, 0xFD, 0x2B, 0x08] = .instr (.vmovntpdY ⟨[], .two false, 1, .base 0 .none⟩) := by decide
theorem test_decode_movntps :
    decode .mode64 [0x0F, 0x2B, 0x08] = .instr (.movntps ⟨[], none, 1, .base 0 .none⟩) := by decide
theorem test_decode_vmovntpsX :
    decode .mode64 [0xC5, 0xF8, 0x2B, 0x08] = .instr (.vmovntpsX ⟨[], .two false, 1, .base 0 .none⟩) := by decide
theorem test_decode_vmovntpsY :
    decode .mode64 [0xC5, 0xFC, 0x2B, 0x08] = .instr (.vmovntpsY ⟨[], .two false, 1, .base 0 .none⟩) := by decide
theorem test_decode_movntq :
    decode .mode64 [0x0F, 0xE7, 0x4E, 0x08] = .instr (.movntq ⟨[], none, 1, .base 6 (.d8 8)⟩) := by decide
theorem test_decode_movqMmLoad :
    decode .mode64 [0x0F, 0x6F, 0xCA] = .instr (.movqMmLoad ⟨[], none, 1, .reg 2⟩) := by decide
theorem test_decode_movqMmStore :
    decode .mode64 [0x0F, 0x7F, 0x0E] = .instr (.movqMmStore ⟨[], none, 1, .mem (.base 6 .none)⟩) := by decide
theorem test_decode_movqXmmLoad :
    decode .mode64 [0xF3, 0x0F, 0x7E, 0x1F] =
      .instr (.movqXmmLoad ⟨[.rep], none, 3, .mem (.base 7 .none)⟩) := by decide
theorem test_decode_vmovqReg :
    decode .mode64 [0xC5, 0xFA, 0x7E, 0xCA] = .instr (.vmovqReg ⟨[], .two false, 1, 2⟩) := by decide
theorem test_decode_vmovqLoad :
    decode .mode64 [0xC5, 0xFA, 0x7E, 0x08] = .instr (.vmovqLoad ⟨[], .two false, 1, .base 0 .none⟩) := by decide
theorem test_decode_movqXmmStore :
    decode .mode64 [0x66, 0x0F, 0xD6, 0x08] =
      .instr (.movqXmmStore ⟨[.opSize], none, 1, .mem (.base 0 .none)⟩) := by decide
theorem test_decode_vmovqStore :
    decode .mode64 [0xC5, 0xF9, 0xD6, 0x10] =
      .instr (.vmovqStore ⟨[], .two false, 2, .mem (.base 0 .none)⟩) := by decide

/-! ### Effects: one step each; the expected results are those of 95_test_vectors.md (its vector is named) -/

/-- D3. -/
theorem test_movddup :
    ymmAfter 1 (run start [0xF2, 0x0F, 0x12, 0xC9]) =
      some 0x1111111111111111111111111111111100112233445566770011223344556677 := by
  decide
/-- D4. -/
theorem test_vmovddupX :
    ymmAfter 1 (run start [0xC5, 0xFB, 0x12, 0xCA]) =
      some 0x0000000000000000000000000000000007060504030201000706050403020100 := by
  decide
/-- D5. -/
theorem test_vmovddupY :
    ymmAfter 3 (run filled [0xC5, 0xFF, 0x12, 0x5C, 0x8B, 0x10]) =
      some 0x2F2E2D2C2B2A29282F2E2D2C2B2A29281F1E1D1C1B1A19181F1E1D1C1B1A1918 := by
  decide
/-- A1. -/
theorem test_movdqaLoad :
    ymmAfter 1 (run filled [0x66, 0x0F, 0x6F, 0x08]) =
      some 0x111111111111111111111111111111110F0E0D0C0B0A09080706050403020100 := by
  decide
/-- A3. -/
theorem test_movdqaStore :
    bytesAfter 0x2000 17 (run start [0x66, 0x0F, 0x7F, 0x0E]) =
      some [0x77, 0x66, 0x55, 0x44, 0x33, 0x22, 0x11, 0x00, 0xFF, 0xEE, 0xDD, 0xCC, 0xBB, 0xAA, 0x99, 0x88, 0x00] := by
  decide
/-- A6. -/
theorem test_vmovdqaXLoad :
    ymmAfter 1 (run filled [0xC5, 0xF9, 0x6F, 0x08]) =
      some 0x000000000000000000000000000000000F0E0D0C0B0A09080706050403020100 := by
  decide
/-- A7. -/
theorem test_vmovdqaXStore :
    bytesAfter 0x2000 17 (run start [0xC5, 0xF9, 0x7F, 0x0E]) =
      some [0x77, 0x66, 0x55, 0x44, 0x33, 0x22, 0x11, 0x00, 0xFF, 0xEE, 0xDD, 0xCC, 0xBB, 0xAA, 0x99, 0x88, 0x00] := by
  decide
/-- the Example of R144. -/
theorem test_vmovdqaYLoad :
    ymmAfter 1 (run filled [0xC5, 0xFD, 0x6F, 0x08]) =
      some 0x1F1E1D1C1B1A191817161514131211100F0E0D0C0B0A09080706050403020100 := by
  decide
/-- A8. -/
theorem test_vmovdqaYStore :
    bytesAfter 0x3000 32 (run start [0xC5, 0x7D, 0x7F, 0x3C, 0x24]) =
      some [0x00, 0x11, 0x22, 0x33, 0x44, 0x55, 0x66, 0x77, 0x88, 0x99, 0xAA, 0xBB, 0xCC, 0xDD, 0xEE, 0xFF,
        0xFF, 0xFF, 0xFF, 0xFF, 0xFF, 0xFF, 0xFF, 0xFF, 0xFF, 0xFF, 0xFF, 0xFF, 0xFF, 0xFF, 0xFF, 0xFF] := by
  decide
/-- U1. -/
theorem test_movdquLoad :
    ymmAfter 1 (run filled [0xF3, 0x0F, 0x6F, 0x4B, 0x01]) =
      some 0x11111111111111111111111111111111100F0E0D0C0B0A090807060504030201 := by
  decide
/-- U4. -/
theorem test_movdquStore :
    bytesAfter 0x400108 17 (run start [0xF3, 0x0F, 0x7F, 0x0D, 0x00, 0x01, 0x00, 0x00]) =
      some [0x77, 0x66, 0x55, 0x44, 0x33, 0x22, 0x11, 0x00, 0xFF, 0xEE, 0xDD, 0xCC, 0xBB, 0xAA, 0x99, 0x88, 0x00] := by
  decide
/-- U1, under VEX.128 (R152). -/
theorem test_vmovdquXLoad :
    ymmAfter 1 (run filled [0xC5, 0xFA, 0x6F, 0x4B, 0x01]) =
      some 0x00000000000000000000000000000000100F0E0D0C0B0A090807060504030201 := by
  decide
/-- U7. -/
theorem test_vmovdquXStore :
    bytesAfter 0x2003 17 (run (start.setGpr 6 0x2003) [0xC5, 0xFA, 0x7F, 0x0E]) =
      some [0x77, 0x66, 0x55, 0x44, 0x33, 0x22, 0x11, 0x00, 0xFF, 0xEE, 0xDD, 0xCC, 0xBB, 0xAA, 0x99, 0x88, 0x00] := by
  decide
/-- U3. -/
theorem test_vmovdquYLoad :
    ymmAfter 2 (run (filled.setGpr 7 0x1001) [0xC5, 0xFE, 0x6F, 0x17]) =
      some 0x201F1E1D1C1B1A191817161514131211100F0E0D0C0B0A090807060504030201 := by
  decide
/-- the Example of R155. -/
theorem test_vmovdquYStore :
    bytesAfter 0x2001 33 (run (start.setGpr 7 0x2001) [0xC5, 0xFE, 0x7F, 0x17]) =
      some [0x00, 0x01, 0x02, 0x03, 0x04, 0x05, 0x06, 0x07, 0x08, 0x09, 0x0A, 0x0B, 0x0C, 0x0D, 0x0E, 0x0F,
        0x22, 0x22, 0x22, 0x22, 0x22, 0x22, 0x22, 0x22, 0x22, 0x22, 0x22, 0x22, 0x22, 0x22, 0x22, 0x22, 0x00] := by
  decide
/-- T4. -/
theorem test_movdq2q :
    mmxAfter 1 (run start [0xF2, 0x41, 0x0F, 0xD6, 0xCF]) =
      some (0xFFFF7766554433221100, 0, 0) := by
  decide
/-- H1. -/
theorem test_movhlps :
    ymmAfter 1 (run start [0x0F, 0x12, 0xCA]) =
      some 0x111111111111111111111111111111118899AABBCCDDEEFF0F0E0D0C0B0A0908 := by
  decide
/-- H3. -/
theorem test_vmovhlps :
    ymmAfter 1 (run start [0xC5, 0xE8, 0x12, 0xCB]) =
      some 0x000000000000000000000000000000000F0E0D0C0B0A0908F1E2D3C4B5A69788 := by
  decide
/-- H7. -/
theorem test_movhpdLoad :
    ymmAfter 1 (run filled [0x66, 0x0F, 0x16, 0x08]) =
      some 0x1111111111111111111111111111111107060504030201000011223344556677 := by
  decide
/-- H8. -/
theorem test_movhpdStore :
    bytesAfter 0x2000 9 (run start [0x66, 0x0F, 0x17, 0x0E]) =
      some [0xFF, 0xEE, 0xDD, 0xCC, 0xBB, 0xAA, 0x99, 0x88, 0x00] := by
  decide
/-- H9. -/
theorem test_vmovhpdLoad :
    ymmAfter 2 (run filled [0xC5, 0xE1, 0x16, 0x10]) =
      some 0x000000000000000000000000000000000706050403020100796A5B4C3D2E1F00 := by
  decide
/-- H11, with the 66 row (R170). -/
theorem test_vmovhpdStore :
    bytesAfter 0x2000 9 (run (start.setGpr 0 0x2000) [0xC5, 0xF9, 0x17, 0x08]) =
      some [0xFF, 0xEE, 0xDD, 0xCC, 0xBB, 0xAA, 0x99, 0x88, 0x00] := by
  decide
/-- H13. -/
theorem test_movhpsLoad :
    ymmAfter 1 (run filled [0x0F, 0x16, 0x08]) =
      some 0x1111111111111111111111111111111107060504030201000011223344556677 := by
  decide
/-- H8, with the row without 66 (R172). -/
theorem test_movhpsStore :
    bytesAfter 0x2000 9 (run (start.setGpr 0 0x2000) [0x0F, 0x17, 0x08]) =
      some [0xFF, 0xEE, 0xDD, 0xCC, 0xBB, 0xAA, 0x99, 0x88, 0x00] := by
  decide
/-- R173. -/
theorem test_vmovhpsLoad :
    ymmAfter 2 (run filled [0xC5, 0xF0, 0x16, 0x10]) =
      some 0x0000000000000000000000000000000007060504030201000011223344556677 := by
  decide
/-- H11. -/
theorem test_vmovhpsStore :
    bytesAfter 0x2000 9 (run (start.setGpr 0 0x2000) [0xC5, 0xF8, 0x17, 0x08]) =
      some [0xFF, 0xEE, 0xDD, 0xCC, 0xBB, 0xAA, 0x99, 0x88, 0x00] := by
  decide
/-- H5. -/
theorem test_movlhps :
    ymmAfter 1 (run start [0x0F, 0x16, 0xCA]) =
      some 0x1111111111111111111111111111111107060504030201000011223344556677 := by
  decide
/-- H6. -/
theorem test_vmovlhps :
    ymmAfter 1 (run start [0xC5, 0xE8, 0x16, 0xCB]) =
      some 0x00000000000000000000000000000000796A5B4C3D2E1F000706050403020100 := by
  decide
/-- L6. -/
theorem test_movlpdLoad :
    ymmAfter 1 (run (filled.setGpr 0 0x1004) [0x66, 0x0F, 0x12, 0x08]) =
      some 0x111111111111111111111111111111118899AABBCCDDEEFF0B0A090807060504 := by
  decide
/-- L3. -/
theorem test_movlpdStore :
    bytesAfter 0x3000 9 (run start [0x66, 0x0F, 0x13, 0x4D, 0x00]) =
      some [0x77, 0x66, 0x55, 0x44, 0x33, 0x22, 0x11, 0x00, 0x00] := by
  decide
/-- R179. -/
theorem test_vmovlpdLoad :
    ymmAfter 2 (run filled [0xC5, 0xF1, 0x12, 0x10]) =
      some 0x000000000000000000000000000000008899AABBCCDDEEFF0706050403020100 := by
  decide
/-- L4. -/
theorem test_vmovlpdStore :
    bytesAfter 0x2000 9 (run (start.setGpr 0 0x2000) [0xC5, 0xF9, 0x13, 0x08]) =
      some [0x77, 0x66, 0x55, 0x44, 0x33, 0x22, 0x11, 0x00, 0x00] := by
  decide
/-- L1. -/
theorem test_movlpsLoad :
    ymmAfter 1 (run filled [0x0F, 0x12, 0x08]) =
      some 0x111111111111111111111111111111118899AABBCCDDEEFF0706050403020100 := by
  decide
/-- L4, with the legacy row without 66 (R182). -/
theorem test_movlpsStore :
    bytesAfter 0x2000 9 (run (start.setGpr 0 0x2000) [0x0F, 0x13, 0x08]) =
      some [0x77, 0x66, 0x55, 0x44, 0x33, 0x22, 0x11, 0x00, 0x00] := by
  decide
/-- L2. -/
theorem test_vmovlpsLoad :
    ymmAfter 2 (run filled [0xC5, 0xE0, 0x12, 0x10]) =
      some 0x00000000000000000000000000000000F1E2D3C4B5A697880706050403020100 := by
  decide
/-- L4, with the row without 66 (R184). -/
theorem test_vmovlpsStore :
    bytesAfter 0x2000 9 (run (start.setGpr 0 0x2000) [0xC5, 0xF8, 0x13, 0x08]) =
      some [0x77, 0x66, 0x55, 0x44, 0x33, 0x22, 0x11, 0x00, 0x00] := by
  decide
/-- K3. -/
theorem test_movmskpd :
    gprAfter 9 (run start [0x66, 0x44, 0x0F, 0x50, 0xCC]) =
      some 2 := by
  decide
/-- K7. -/
theorem test_vmovmskpdX :
    gprAfter 0 (run signs [0xC5, 0xF9, 0x50, 0xC2]) =
      some 1 := by
  decide
/-- K5. -/
theorem test_vmovmskpdY :
    gprAfter 0 (run signs [0xC5, 0xFD, 0x50, 0xC2]) =
      some 5 := by
  decide
/-- K2. -/
theorem test_movmskps :
    gprAfter 0 (run start [0x0F, 0x50, 0xC4]) =
      some 9 := by
  decide
/-- K6, its low four elements (R204). -/
theorem test_vmovmskpsX :
    gprAfter 1 (run signs [0xC5, 0xF8, 0x50, 0xCA]) =
      some 6 := by
  decide
/-- K6. -/
theorem test_vmovmskpsY :
    gprAfter 1 (run signs [0xC5, 0xFC, 0x50, 0xCA]) =
      some 0x76 := by
  decide
/-- N1. -/
theorem test_movntdqa :
    ymmAfter 1 (run filled [0x66, 0x0F, 0x38, 0x2A, 0x08]) =
      some 0x111111111111111111111111111111110F0E0D0C0B0A09080706050403020100 := by
  decide
/-- N1, under VEX.128 (R211). -/
theorem test_vmovntdqaX :
    ymmAfter 1 (run filled [0xC4, 0xE2, 0x79, 0x2A, 0x08]) =
      some 0x000000000000000000000000000000000F0E0D0C0B0A09080706050403020100 := by
  decide
/-- N3. -/
theorem test_vmovntdqaY :
    ymmAfter 1 (run filled [0xC4, 0xE2, 0x7D, 0x2A, 0x08]) =
      some 0x1F1E1D1C1B1A191817161514131211100F0E0D0C0B0A09080706050403020100 := by
  decide
/-- N7. -/
theorem test_movntdq :
    bytesAfter 0x2000 17 (run start [0x66, 0x0F, 0xE7, 0x0E]) =
      some [0x77, 0x66, 0x55, 0x44, 0x33, 0x22, 0x11, 0x00, 0xFF, 0xEE, 0xDD, 0xCC, 0xBB, 0xAA, 0x99, 0x88, 0x00] := by
  decide
/-- N7, under VEX.128 (R214). -/
theorem test_vmovntdqX :
    bytesAfter 0x2000 17 (run (start.setGpr 0 0x2000) [0xC5, 0xF9, 0xE7, 0x08]) =
      some [0x77, 0x66, 0x55, 0x44, 0x33, 0x22, 0x11, 0x00, 0xFF, 0xEE, 0xDD, 0xCC, 0xBB, 0xAA, 0x99, 0x88, 0x00] := by
  decide
/-- N8. -/
theorem test_vmovntdqY :
    bytesAfter 0x2000 33 (run start [0xC5, 0xFD, 0xE7, 0x0E]) =
      some [0x77, 0x66, 0x55, 0x44, 0x33, 0x22, 0x11, 0x00, 0xFF, 0xEE, 0xDD, 0xCC, 0xBB, 0xAA, 0x99, 0x88,
        0x11, 0x11, 0x11, 0x11, 0x11, 0x11, 0x11, 0x11, 0x11, 0x11, 0x11, 0x11, 0x11, 0x11, 0x11, 0x11, 0x00] := by
  decide
/-- N11. -/
theorem test_movnti32 :
    bytesAfter 0x2000 5 (run (start.setGpr 0 0x1122334455667788) [0x0F, 0xC3, 0x06]) =
      some [0x88, 0x77, 0x66, 0x55, 0x00] := by
  decide
/-- N12. -/
theorem test_movnti64 :
    bytesAfter 0x2000 9 (run (start.setGpr 0 0x1122334455667788) [0x48, 0x0F, 0xC3, 0x06]) =
      some [0x88, 0x77, 0x66, 0x55, 0x44, 0x33, 0x22, 0x11, 0x00] := by
  decide
/-- N9. -/
theorem test_movntpd :
    bytesAfter 0x2000 17 (run start [0x66, 0x0F, 0x2B, 0x0E]) =
      some [0x77, 0x66, 0x55, 0x44, 0x33, 0x22, 0x11, 0x00, 0xFF, 0xEE, 0xDD, 0xCC, 0xBB, 0xAA, 0x99, 0x88, 0x00] := by
  decide
/-- N9, under VEX.128 (R219). -/
theorem test_vmovntpdX :
    bytesAfter 0x2000 17 (run (start.setGpr 0 0x2000) [0xC5, 0xF9, 0x2B, 0x08]) =
      some [0x77, 0x66, 0x55, 0x44, 0x33, 0x22, 0x11, 0x00, 0xFF, 0xEE, 0xDD, 0xCC, 0xBB, 0xAA, 0x99, 0x88, 0x00] := by
  decide
/-- N8, with the row of R220. -/
theorem test_vmovntpdY :
    bytesAfter 0x2000 33 (run (start.setGpr 0 0x2000) [0xC5, 0xFD, 0x2B, 0x08]) =
      some [0x77, 0x66, 0x55, 0x44, 0x33, 0x22, 0x11, 0x00, 0xFF, 0xEE, 0xDD, 0xCC, 0xBB, 0xAA, 0x99, 0x88,
        0x11, 0x11, 0x11, 0x11, 0x11, 0x11, 0x11, 0x11, 0x11, 0x11, 0x11, 0x11, 0x11, 0x11, 0x11, 0x11, 0x00] := by
  decide
/-- N9. -/
theorem test_movntps :
    bytesAfter 0x2000 17 (run start [0x0F, 0x2B, 0x0E]) =
      some [0x77, 0x66, 0x55, 0x44, 0x33, 0x22, 0x11, 0x00, 0xFF, 0xEE, 0xDD, 0xCC, 0xBB, 0xAA, 0x99, 0x88, 0x00] := by
  decide
/-- N9, under VEX.128 (R222). -/
theorem test_vmovntpsX :
    bytesAfter 0x2000 17 (run (start.setGpr 0 0x2000) [0xC5, 0xF8, 0x2B, 0x08]) =
      some [0x77, 0x66, 0x55, 0x44, 0x33, 0x22, 0x11, 0x00, 0xFF, 0xEE, 0xDD, 0xCC, 0xBB, 0xAA, 0x99, 0x88, 0x00] := by
  decide
/-- N8, with the row of R223. -/
theorem test_vmovntpsY :
    bytesAfter 0x2000 33 (run (start.setGpr 0 0x2000) [0xC5, 0xFC, 0x2B, 0x08]) =
      some [0x77, 0x66, 0x55, 0x44, 0x33, 0x22, 0x11, 0x00, 0xFF, 0xEE, 0xDD, 0xCC, 0xBB, 0xAA, 0x99, 0x88,
        0x11, 0x11, 0x11, 0x11, 0x11, 0x11, 0x11, 0x11, 0x11, 0x11, 0x11, 0x11, 0x11, 0x11, 0x11, 0x11, 0x00] := by
  decide
/-- N17. -/
theorem test_movntq :
    bytesAfter 0x2008 9 (run start [0x0F, 0xE7, 0x4E, 0x08]) =
      some [0x11, 0x11, 0x11, 0x11, 0x11, 0x11, 0x11, 0x11, 0x00] := by
  decide
/-- Q1. -/
theorem test_movqMmLoad :
    mmxAfter 1 (run start [0x0F, 0x6F, 0xCA]) =
      some (0xFFFF2222222222222222, 0, 0) := by
  decide
/-- Q2. -/
theorem test_movqMmStore :
    bytesAfter 0x2000 9 (run start [0x0F, 0x7F, 0x0E]) =
      some [0x11, 0x11, 0x11, 0x11, 0x11, 0x11, 0x11, 0x11, 0x00] := by
  decide
/-- Q4. -/
theorem test_movqXmmLoad :
    ymmAfter 1 (run start [0xF3, 0x0F, 0x7E, 0xC9]) =
      some 0x1111111111111111111111111111111100000000000000000011223344556677 := by
  decide
/-- Q6. -/
theorem test_vmovqReg :
    ymmAfter 1 (run start [0xC5, 0xFA, 0x7E, 0xC9]) =
      some 0x0000000000000000000000000000000000000000000000000011223344556677 := by
  decide
/-- Q7. -/
theorem test_vmovqLoad :
    ymmAfter 1 (run filled [0xC5, 0xFA, 0x7E, 0x08]) =
      some 0x0000000000000000000000000000000000000000000000000706050403020100 := by
  decide
/-- Q9. -/
theorem test_movqXmmStore :
    ymmAfter 2 (run start [0x66, 0x0F, 0xD6, 0xCA]) =
      some 0x2222222222222222222222222222222200000000000000000011223344556677 := by
  decide
/-- Q10. -/
theorem test_vmovqStore :
    bytesAfter 0x2000 9 (run start [0xC5, 0xF9, 0xD6, 0x16]) =
      some [0x00, 0x01, 0x02, 0x03, 0x04, 0x05, 0x06, 0x07, 0x00] := by
  decide

/-! ### Witnesses: for every obligation with hypotheses, a state and operands that meet them -/

/-- The state with these bytes loaded as the program. -/
def placed (s : State) (bs : List Byte) : State := s.loadInstruction (bs ++ List.replicate (15 - bs.length) 0)

/-- S0 in Mode32. -/
def start32 : State := { start with cfg := { Config.launch with mode := .mode32 } }

/-- S0 with alignment checking on (vectors D7, D8, U5). -/
def checking : State := { start with cpl := 3, cr0 := 0x60040011, rflags := 0x40002 }

/-- S0 with an oracle that gives this answer for the byte at 1008H. -/
def guarded (ans : AccessAnswer) : State :=
  { start with cfg := { Config.launch with access := [⟨0x1008, 1, none, none, ans⟩] } }

/-- The memory operand with this base register field and displacement, of an instruction of 4 bytes. -/
def at4 (rm : BitVec 3) (d : Disp) : MemRef := ⟨.base rm d, false, false, [], 4⟩

/-- Whether an execution completes. -/
def completes (o : Host.Outcome State Fault Refusal) : Bool :=
  match o with
  | .next _ => true
  | .fault _ => false
  | .refused _ => false

theorem exists_of_completes {o : Host.Outcome State Fault Refusal} (h : completes o = true) : ∃ t, o = .next t := by
  cases o with
  | next t => exact ⟨t, rfl⟩
  | fault _ => cases h
  | refused _ => cases h

/-- The fault of an execution. -/
def faultOf (o : Host.Outcome State Fault Refusal) : Option Fault :=
  match o with
  | .next _ => none
  | .fault f => some f
  | .refused _ => none

theorem of_faultOf {o : Host.Outcome State Fault Refusal} {f : Fault} (h : faultOf o = some f) : o = .fault f := by
  cases o <;> cases h
  rfl

theorem accessible_of {s : State} {kind : AccessKind} {al : AlignRule} {n : Nat} {r : MemRef} {locs : List Nat}
    (h : s.passesSegmentEnd r n = false ∧ s.addressForm kind r n = true ∧
      s.translate kind (byteAddrs s.cfg.mode (s.linear r) n) = .ok locs ∧
        s.overlapsText (byteAddrs s.cfg.mode (s.linear r) n) locs = false)
    (ha : al.Met s (s.linear r)) : s.Accessible kind al n r locs :=
  ⟨h.1, h.2.1, ha, State.translate_eq_ok.1 h.2.2.1, fun _ => h.2.2.2⟩

/-- Every check procedure lets pass in S0: the hypothesis of MovesVector, MovesMmx and MasksSigns. -/
theorem witness_ready (g : Gate) : g.Ready start := by
  cases g with
  | sse f => exact ⟨by decide, by decide, by cases f <;> decide, by decide⟩
  | vex f => exact ⟨by decide, by decide, by cases f <;> decide, by decide⟩
  | mmx f => exact ⟨by decide, by cases f <;> decide, by decide, by decide⟩
  | movnti => exact (by decide : start.has .sse2 = true)
  | movdq2q => exact ⟨by decide, by decide, by decide, by decide, by decide⟩

/-- So do they with alignment checking on. -/
theorem witness_ready_checking (g : Gate) : g.Ready checking := by
  cases g with
  | sse f => exact ⟨by decide, by decide, by cases f <;> decide, by decide⟩
  | vex f => exact ⟨by decide, by decide, by cases f <;> decide, by decide⟩
  | mmx f => exact ⟨by decide, by cases f <;> decide, by decide, by decide⟩
  | movnti => exact (by decide : checking.has .sse2 = true)
  | movdq2q => exact ⟨by decide, by decide, by decide, by decide, by decide⟩

/-- LoadsVector, StoresTo: operands accessible in S0, under each alignment rule and for both kinds; without alignment
checking a misaligned one under the rules that allow it. -/
theorem witness_accessible_required16 (kind : AccessKind) :
    start.Accessible kind (.required 16) 16 (at4 0 .none) ((List.range 16).map (0x1000 + ·)) :=
  accessible_of (by cases kind <;> decide) (by decide : (start.linear (at4 0 .none)).toNat % 16 = 0)
theorem witness_accessible_required32 (kind : AccessKind) :
    start.Accessible kind (.required 32) 32 (at4 0 .none) ((List.range 32).map (0x1000 + ·)) :=
  accessible_of (by cases kind <;> decide) (by decide : (start.linear (at4 0 .none)).toNat % 32 = 0)
theorem witness_accessible_definite8 (kind : AccessKind) :
    start.Accessible kind (.definite 8) 8 (at4 0 (.d8 7)) ((List.range 8).map (0x1007 + ·)) :=
  accessible_of (by cases kind <;> decide) (fun h => absurd h (by decide))
theorem witness_accessible_definite4 :
    start.Accessible .write (.definite 4) 4 (at4 0 (.d8 1)) ((List.range 4).map (0x1001 + ·)) :=
  accessible_of (by decide) (fun h => absurd h (by decide))
theorem witness_accessible_draw8 (kind : AccessKind) :
    start.Accessible kind (.draw 8) 32 (at4 0 (.d8 1)) ((List.range 32).map (0x1001 + ·)) :=
  accessible_of (by cases kind <;> decide) (fun h => absurd h (by decide))
theorem witness_accessible_draw8_checking :
    checking.Accessible .read (.draw 8) 16 (at4 0 (.d8 8)) ((List.range 16).map (0x1008 + ·)) :=
  accessible_of (by decide) (fun _ => by decide)
theorem witness_accessible_draw32 :
    start.Accessible .read (.draw 32) 32 (at4 0 (.d8 8)) ((List.range 32).map (0x1008 + ·)) :=
  accessible_of (by decide) (fun h => absurd h (by decide))
theorem witness_distinct_locations : ((List.range 32).map (0x1000 + ·)).Nodup ∧ start.mem.wf := by decide

/-- VMOVNTDQA ymm is enabled with AVX2 and without AVX, where VLMAX is 128 (StreamingLoads). -/
def avx2Only : State :=
  { start with cfg := { Config.launch with cpuid := { Config.launch.cpuid with avx := false } } }
theorem witness_StreamingLoads :
    (Gate.vex .avx2).Ready avx2Only ∧ avx2Only.vlmax = 128 ∧ start.vlmax = 256 ∧
      avx2Only.Accessible .read (.required 32) 32 (at4 0 .none) ((List.range 32).map (0x1000 + ·)) :=
  ⟨⟨by decide, by decide, by decide, by decide⟩, by decide, by decide,
    accessible_of (by decide) (by decide : (avx2Only.linear (at4 0 .none)).toNat % 32 = 0)⟩

/-- An instruction of 13 bytes. -/
def longest : Instr :=
  .movntdqa ⟨[.addrSize, .seg .gs, .opSize], some ⟨true, true, true, true⟩, 7, .sib 3 7 7 (.d32 0xFFFFFFFF)⟩

theorem witness_DecodeOfEncode : longest.wf .mode64 = true ∧ (Instr.movhlps ⟨[], none, 7, 7⟩).wf .mode32 = true := by
  decide
theorem witness_EncodeOfDecode :
    decode .mode32 [0x0F, 0x12, 0xC8, 0xFF] = .instr (.movhlps ⟨[], none, 1, 0⟩) := by decide
theorem witness_LongestInstruction :
    (encode longest).length = 13 ∧ (encode (.movhlps ⟨[], none, 7, 7⟩)).length = 3 := by decide

/-- What StepRaisesUd asks of a state, for bytes placed at RIP. -/
def Meets (s : State) (m : Mode) (bs : List Byte) : Prop :=
  (placed s bs).Runs ∧ (placed s bs).atEnd = false ∧ (placed s bs).cfg.mode = m ∧
    (placed s bs).fetchBytes = bs ++ List.replicate (15 - bs.length) 0

theorem meets_start {bs : List Byte} (h : (placed start bs).atEnd = false ∧
    (placed start bs).fetchBytes = bs ++ List.replicate (15 - bs.length) 0) : Meets start .mode64 bs :=
  ⟨⟨(by decide : start.pe = true), (by decide : start.vm = false), (by decide : start.tf = false), rfl⟩, h.1, rfl, h.2⟩

theorem meets_start32 {bs : List Byte} (h : (placed start32 bs).atEnd = false ∧
    (placed start32 bs).fetchBytes = bs ++ List.replicate (15 - bs.length) 0) : Meets start32 .mode32 bs :=
  ⟨⟨(by decide : start32.pe = true), (by decide : start32.vm = false), (by decide : start32.tf = false), rfl⟩, h.1, rfl, h.2⟩

/-- A register form in VEX with vvvv naming `v`; D6 for v = 1. -/
def vexReg : Vex RegField := ⟨[], .two false, 1, 2⟩
def vexMem : Vex MemOp := ⟨[], .two false, 1, .base 0 .none⟩

theorem witness_ReservedVvvv_first :
    wfVex .mode64 .m0F 1 (vexReg.map RM.reg) = true ∧ (1 : RegNum) ≠ 0 ∧
      Meets start .mode64 (vexBytes .pF2 .m0F false 1 0x12 (vexReg.map RM.reg)) :=
  ⟨by decide, by decide, meets_start (by decide)⟩
theorem witness_ReservedVvvv_last64 :
    wfVex .mode64 .m0F 15 (vexMem.map RM.mem) = true ∧
      Meets start .mode64 (vexBytes .p66 .m0F false 15 0xD6 (vexMem.map RM.mem)) :=
  ⟨by decide, meets_start (by decide)⟩
theorem witness_ReservedVvvv_last32 :
    wfVex .mode32 .m0F 7 (vexReg.map RM.reg) = true ∧
      Meets start32 .mode32 (vexBytes .pF2 .m0F true 7 0x12 (vexReg.map RM.reg)) :=
  ⟨by decide, meets_start32 (by decide)⟩
theorem witness_ReservedL :
    wfVex .mode64 .m0F 0 (vexReg.map RM.reg) = true ∧ wfVex .mode64 .m0F 15 (vexReg.map RM.reg) = true ∧
      Meets start .mode64 (vexBytes .none .m0F true 15 0x12 (vexReg.map RM.reg)) :=
  ⟨by decide, by decide, meets_start (by decide)⟩
theorem witness_ReservedMod_legacy_reg :
    wfLegacy .mode64 .p66 ((⟨[.opSize], none, 1, 0⟩ : Legacy RegField).map RM.reg) = true ∧
      Meets start .mode64 [0x66, 0x0F, 0x16, 0xC8] := ⟨by decide, meets_start (by decide)⟩
theorem witness_ReservedMod_vex_reg :
    wfVex .mode64 .m0F38 0 ((⟨[], .three false false false false, 1, 2⟩ : Vex RegField).map RM.reg) = true ∧
      Meets start .mode64 [0xC4, 0xE2, 0x79, 0x2A, 0xCA] := ⟨by decide, meets_start (by decide)⟩
theorem witness_ReservedMod_legacy_mem :
    wfLegacy .mode64 .pF2 ((⟨[.repne], none, 1, .base 0 .none⟩ : Legacy MemOp).map RM.mem) = true ∧
      Meets start .mode64 [0xF2, 0x0F, 0xD6, 0x08] := ⟨by decide, meets_start (by decide)⟩
theorem witness_ReservedMod_vex_mem :
    wfVex .mode64 .m0F 0 (vexMem.map RM.mem) = true ∧ Meets start .mode64 [0xC5, 0xF8, 0x50, 0x08] :=
  ⟨by decide, meets_start (by decide)⟩
theorem witness_ForbiddenPrefixes_lock :
    (Instr.movdqaStore ⟨[.opSize], none, 1, .mem (.base 6 .none)⟩).wf .mode64 = true ∧
      Meets start .mode64 [0xF0, 0x66, 0x0F, 0x7F, 0x0E] := ⟨by decide, meets_start (by decide)⟩
theorem witness_ForbiddenPrefixes_vex :
    wfVex .mode64 .m0F 0 (vexMem.map RM.mem) = true ∧ Prefix.opSize.isSimd = true ∧
      Meets start .mode64 [0x66, 0xC5, 0xF9, 0x6F, 0x08] ∧ Meets start .mode64 [0x40, 0xC5, 0xF9, 0x6F, 0x08] :=
  ⟨by decide, by decide, meets_start (by decide), meets_start (by decide)⟩
/-- A reserved map: mmmmm = 0 in Mode64, 31 in Mode32. -/
theorem witness_ForbiddenPrefixes_map :
    (0x00 : Byte).extractLsb' 0 5 ∉ ([1, 2, 3] : List (BitVec 5)) ∧ Meets start .mode64 [0xC4, 0x00, 0x00] ∧
      (0xFF : Byte).extractLsb' 5 3 = 7 ∧ (0x40 : Byte).getLsbD 6 = true ∧
        (0xFF : Byte).extractLsb' 0 5 ∉ ([1, 2, 3] : List (BitVec 5)) ∧ Meets start32 .mode32 [0xC4, 0xFF, 0x40] :=
  ⟨by decide, meets_start (by decide), by decide, by decide, by decide, meets_start32 (by decide)⟩

/-! OutsideTheTableIsRefused, clause by clause. -/

theorem witness_OutsideTheTable_byte :
    Prefix.lock ∉ [Prefix.rep, .rep] ∧ readItem .mode64 0x90 = none ∧ (0x90 : Byte) ∉ ([0x0F, 0xC4, 0xC5] : List Byte) ∧
      readItem .mode32 0x4F = none ∧ (0x40 : Byte).extractLsb' 4 4 = 4 ∧ (0x4F : Byte).extractLsb' 4 4 = 4 := by decide
/-- F3 0F 12, 0F 7E, 66 0F C3, F3 0F D6, F2 0F 6F (R113), and 0F 38 12. -/
theorem witness_OutsideTheTable_legacyOpcode :
    (∀ x ∈ [(SimdPrefix.pF3, OpMap.m0F, (0x12 : Byte)), (.none, .m0F, 0x7E), (.p66, .m0F, 0xC3), (.pF3, .m0F, 0xD6),
        (.pF2, .m0F, 0x6F), (.none, .m0F38, 0x12)], x ∉ legacyOpcodes) ∧
      wfPrefixes .pF3 [.rep] = true ∧ wfPrefixes .none [] = true ∧ wfPrefixes .p66 [.opSize, .seg .fs] = true ∧
        wfPrefixes .pF2 [.repne] = true := by decide
/-- C5 78 7E; C4 E2 F9 12 in Mode32. -/
theorem witness_OutsideTheTable_vexOpcode :
    (SimdPrefix.none, OpMap.m0F, 0x7E) ∉ vexOpcodes ∧ (SimdPrefix.p66, OpMap.m0F38, 0x12) ∉ vexOpcodes ∧
      wfVexForm .mode64 .m0F (.two true) = true ∧ wfVexForm .mode32 .m0F38 (.three false false false true) = true := by
  decide
/-- LES and LDS in Mode32, at both ends of bits 7:6; LES in the last two of 15 bytes. -/
theorem witness_OutsideTheTable_les :
    (0xBF : Byte).extractLsb' 6 2 ≠ 3 ∧ (0x00 : Byte).extractLsb' 6 2 ≠ 3 ∧ (0xC0 : Byte).extractLsb' 6 2 = 3 ∧
      decode .mode32 (List.replicate 13 0x2E ++ [0xC4, 0x05]) = .refused .outsideTable ∧
        decode .mode32 (List.replicate 13 0x2E ++ [0xC4, 0xC5]) = .outOfBytes := by decide
/-- Two segment overrides, two 67s, 66 and F2; a REX before a prefix, and before a REX. -/
theorem witness_OutsideTheTable_prefixes :
    (.p66, .m0F, 0x6F) ∈ legacyOpcodes ∧ (.p66, .m0F38, 0x2A) ∈ legacyOpcodes ∧
      2 ≤ ([.opSize, .seg .fs, .seg .fs].filter Prefix.isSeg).length ∧ 2 ≤ [Prefix.addrSize, .addrSize].count .addrSize ∧
        2 ≤ ([.opSize, .repne].filter Prefix.isSimd).length ∧ [Prefix.opSize] ≠ [] ∧
          (some ⟨false, false, false, false⟩ : Option Rex) ≠ none ∧
            decode .mode64 [0x48, 0x66, 0x0F, 0x6F, 0xCA] = .refused .prefixSet := by decide
/-- A VEX row after two overrides, and after two 67s, in both modes. -/
theorem witness_OutsideTheTable_vexPrefixes :
    [Prefix.seg .es, .seg .gs].filter Prefix.isSimd = [] ∧ 2 ≤ ([Prefix.seg .es, .seg .gs].filter Prefix.isSeg).length ∧
      2 ≤ [Prefix.addrSize, .addrSize].count .addrSize ∧ wfVexForm .mode32 .m0F (.two false) = true ∧
        wfVexForm .mode64 .m0F38 (.three true true true true) = true ∧ (.p66, .m0F, 0x6F) ∈ vexOpcodes ∧
          (7 : RegNum).toNat ≤ 7 := by decide
/-- B' = 0; vvvv[3] = 0. -/
theorem witness_OutsideTheTable_mode32 :
    (0xC1 : Byte).extractLsb' 6 2 = 3 ∧ (0xC1 : Byte).getLsbD 5 = false ∧ (0x39 : Byte).getLsbD 6 = false ∧
      (0xE1 : Byte).getLsbD 5 = true ∧ decode .mode32 [0xC4, 0xE1, 0x39, 0x6F, 0x08] = .refused .vexMode32 := by decide

/-- The six NDS rows at vvvv = 1111b and 0000b (RegisterNumbers). -/
theorem witness_RegisterNumbers_vvvv :
    wfVex .mode64 .m0F (~~~15) (vexReg.map RM.reg) = true ∧ wfVex .mode64 .m0F (~~~0) (vexReg.map RM.reg) = true ∧
      wfVex .mode64 .m0F (~~~15) (vexMem.map RM.mem) = true ∧ wfVex .mode64 .m0F (~~~0) (vexMem.map RM.mem) = true := by
  decide
/-- Forms with each kind of REX and VEX, and two REX prefixes that differ in R alone. -/
theorem witness_RegisterNumbers_fields :
    (⟨[], some ⟨false, true, false, true⟩, 7, 7⟩ : Legacy RegField).regNum = 15 ∧
      (⟨[], some ⟨false, false, true, true⟩, 7, .base 7 .none⟩ : Legacy MemOp).regNum = 7 ∧
        (⟨[], none, 7, 7⟩ : Legacy RegField).rmNum = 7 ∧ (⟨[], .two true, 7, 7⟩ : Vex RegField).rmNum = 7 ∧
          (⟨[], .three true false true false, 0, 0⟩ : Vex RegField).rmNum = 8 ∧
            (⟨false, true, false, true⟩ : Rex).b = (⟨false, false, false, true⟩ : Rex).b := by decide

theorem witness_EffectiveAddress :
    start.cfg.mode = .mode64 ∧ Prefix.addrSize ∉ ([] : List Prefix) ∧
      (start.cfg.mode = .mode64 ↔ Prefix.addrSize ∈ [Prefix.addrSize]) ∧
        (start32.cfg.mode = .mode64 ↔ Prefix.addrSize ∈ ([] : List Prefix)) ∧
          start32.cfg.mode = .mode32 ∧ segOverride [Prefix.addrSize] = none ∧
            extend false 4 = 4 ∧ extend true 4 ≠ 4 := by decide
theorem witness_LinearAddress :
    segOverride [Prefix.seg .fs] = some .fs ∧ segOf ⟨.base 0 .none, false, false, [.seg .gs], 5⟩ = .gs ∧
      segOf ⟨.base 5 (.d8 0), false, false, [], 5⟩ = .ss ∧ segOf ⟨.base 5 (.d8 0), false, true, [], 5⟩ = .ds ∧
        start.cfg.mode = .mode64 ∧ start32.cfg.mode = .mode32 := by decide
theorem witness_LanePlacement :
    (List.replicate 16 (0 : Byte)).length = 16 ∧ (List.replicate 32 (0 : Byte)).length = 32 := by
  decide
theorem witness_StoredValueIsReadBack :
    8 ∣ 8 ∧ 8 ∣ 256 ∧ Memory.wf [(2 ^ 64 - 1, 1)] ∧ [2 ^ 64 - 1].Nodup ∧ [2 ^ 64 - 1].length = 8 / 8 ∧
      ((List.range 32).map (0x1000 + ·)).length = 256 / 8 := by decide

/-- The clauses of OrderOfAccessChecks that stop before the oracle. -/
theorem witness_OrderOfAccessChecks_form :
    ({ start32 with gpr := start32.gpr.set 6 0xFFF8 }).passesSegmentEnd
        ⟨.base16 4 .none, false, false, [.addrSize], 5⟩ 16 = true ∧
      ({ start with gpr := start.gpr.set 7 0x800000000000 }).passesSegmentEnd (at4 7 .none) 16 = false ∧
        ({ start with gpr := start.gpr.set 7 0x800000000000 }).addressForm .read (at4 7 .none) 16 = false ∧
          start.addressForm .read (at4 0 (.d8 8)) 16 = true ∧ (start.linear (at4 0 (.d8 8))).toNat % 16 ≠ 0 := by
  decide
/-- S0 in Mode32 with this data segment. -/
def withDs (g : Segment) : State :=
  { start32 with cfg := { start32.cfg with seg := { Segments.flat with ds := g } } }
/-- The Mode32 form of OrderOfAccessChecks: the last byte at the limit and one above it; offsets that wrap; a null
segment; a read and a write through a read-only one. -/
theorem witness_OrderOfAccessChecks_mode32 :
    (withDs { Segment.flat with limit := 0x100F }).addressForm .read (at4 0 .none) 16 = true ∧
      (withDs { Segment.flat with limit := 0x100E }).addressForm .read (at4 0 .none) 16 = false ∧
        ({ start32 with gpr := start32.gpr.set 0 0xFFFFFFF8 }).addressForm .read (at4 0 .none) 16 = true ∧
          (withDs { Segment.flat with null := true }).addressForm .read (at4 0 .none) 16 = false ∧
            (withDs { Segment.flat with writable := false }).addressForm .read (at4 0 .none) 16 = true ∧
              (withDs { Segment.flat with writable := false }).addressForm .write (at4 0 .none) 16 = false := by
  decide
/-- S0 in Mode32 with this stack segment. -/
def withSs (g : Segment) : State :=
  { start32 with cfg := { start32.cfg with seg := { Segments.flat with ss := g } } }
/-- The Mode32 form through SS (base RBP): past the limit #SS(0), a null SS and a write to a read-only one #GP(0), and
#GP(0) where the limit is passed as well (R263, R264); in Mode64 a non-canonical address through SS (A12). -/
theorem witness_OrderOfAccessChecks_ss :
    segOf (at4 5 (.d8 0)) = .ss ∧
      memAccess .read (.definite 8) 8 (at4 5 (.d8 0)) (withSs { Segment.flat with limit := 0x3006 }) = .raise .ss ∧
        memAccess .read (.definite 8) 8 (at4 5 (.d8 0)) (withSs { Segment.flat with null := true }) = .raise .gp ∧
          memAccess .write (.definite 8) 8 (at4 5 (.d8 0)) (withSs { Segment.flat with writable := false }) =
            .raise .gp ∧
            memAccess .write (.definite 8) 8 (at4 5 (.d8 0)) (withSs ⟨0, 0x3006, false, false⟩) = .raise .gp ∧
              memAccess .read (.definite 8) 8 (at4 5 (.d8 0)) (withSs ⟨0, 0x3006, false, false⟩) = .raise .ss ∧
                memAccess .read (.definite 8) 8 (at4 5 (.d8 0))
                  { start with gpr := start.gpr.set 5 0x800000000000 } = .raise .ss := by
  decide
/-- The clauses in which the ninth byte is not "ok". -/
theorem witness_OrderOfAccessChecks_oracle (ans : AccessAnswer) (h : ans ∈ [.pf 6 0x1008, .gp, .ss, .device]) :
    (guarded ans).passesSegmentEnd (at4 0 .none) 16 = false ∧
      (guarded ans).addressForm .read (at4 0 .none) 16 = true ∧
        ((guarded ans).linear (at4 0 .none)).toNat % 16 = 0 ∧
          byteAddrs (guarded ans).cfg.mode ((guarded ans).linear (at4 0 .none)) 16 =
            (List.range 8).map (0x1000 + BitVec.ofNat 64 ·) ++
              0x1008#64 :: (List.range 7).map (0x1009 + BitVec.ofNat 64 ·) ∧
            (guarded ans).Located .read ((List.range 8).map (0x1000 + BitVec.ofNat 64 ·))
              ((List.range 8).map (0x1000 + ·)) ∧
              (guarded ans).accessByte .read 0x1008 = ans := by
  simp only [List.mem_cons, List.not_mem_nil, or_false] at h
  rcases h with rfl | rfl | rfl | rfl <;>
    exact ⟨by decide, by decide, by decide, by decide, State.translate_eq_ok.1 (by decide), by decide⟩
/-- The clauses after the oracle: #AC, a store into the program text, and an access that goes through. -/
theorem witness_OrderOfAccessChecks_after :
    (checking.alignCheck = true ∧ (checking.linear (at4 0 (.d8 7))).toNat % 8 ≠ 0 ∧
      checking.Located .read (byteAddrs checking.cfg.mode (checking.linear (at4 0 (.d8 7))) 8)
        ((List.range 8).map (0x1007 + ·))) ∧
      ((placed start [0xC5, 0xF9, 0x6F, 0x08]).Located .write
          (byteAddrs .mode64 ((placed start [0xC5, 0xF9, 0x6F, 0x08]).linear ⟨.disp32 (-1), false, false, [], 4⟩) 8)
          ((List.range 8).map (0x400003 + ·)) ∧
        (placed start [0xC5, 0xF9, 0x6F, 0x08]).overlapsText
          (byteAddrs .mode64 ((placed start [0xC5, 0xF9, 0x6F, 0x08]).linear ⟨.disp32 (-1), false, false, [], 4⟩) 8)
          ((List.range 8).map (0x400003 + ·)) = true) :=
  ⟨⟨by decide, by decide, State.translate_eq_ok.1 (by decide)⟩, State.translate_eq_ok.1 (by decide), by decide⟩

/-- MOVDQA xmm1, [rax+8] (A2). -/
def movdqaAt8 : Instr := .movdqaLoad ⟨[.opSize], none, 1, .mem (.base 0 (.d8 8))⟩
theorem witness_AlignedMovesRaiseGp :
    movdqaAt8.gate.Ready start ∧
      movdqaAt8.access = some ⟨.read, 16, .required 16, ⟨.base 0 (.d8 8), false, false, [.opSize], 5⟩⟩ ∧
      start.passesSegmentEnd ⟨.base 0 (.d8 8), false, false, [.opSize], 5⟩ 16 = false ∧
        start.addressForm .read ⟨.base 0 (.d8 8), false, false, [.opSize], 5⟩ 16 = true ∧
          (start.linear ⟨.base 0 (.d8 8), false, false, [.opSize], 5⟩).toNat % 16 ≠ 0 :=
  ⟨witness_ready _, by decide, by decide, by decide, by decide⟩
/-- MOVNTI [rax+2], eax (N15) and MOVQ xmm3, [rax+7] (Q15). -/
theorem witness_NarrowAccessesRaiseAc_4 :
    (Instr.movnti32 ⟨[], none, 0, .base 0 (.d8 2)⟩).gate.Ready checking ∧
      (Instr.movnti32 ⟨[], none, 0, .base 0 (.d8 2)⟩).access = some ⟨.write, 4, .definite 4, at4 0 (.d8 2)⟩ ∧
        checking.alignCheck = true ∧ (checking.linear (at4 0 (.d8 2))).toNat % 4 ≠ 0 ∧
          checking.withoutAc.Accessible .write (.definite 4) 4 (at4 0 (.d8 2)) ((List.range 4).map (0x1002 + ·)) :=
  ⟨witness_ready_checking _, by decide, by decide, by decide,
    accessible_of (by decide) (fun h => absurd h (by decide))⟩
theorem witness_NarrowAccessesRaiseAc_8 :
    checking.alignCheck = true ∧ (checking.linear (at4 0 (.d8 7))).toNat % 8 ≠ 0 ∧
      checking.withoutAc.Accessible .read (.definite 8) 8 (at4 0 (.d8 7)) ((List.range 8).map (0x1007 + ·)) :=
  ⟨by decide, by decide, accessible_of (by decide) (fun h => absurd h (by decide))⟩
/-- VMOVDDUP ymm3, [rax+8] (D8). Either value of the draw is possible: it is a free value. -/
theorem witness_AlignmentCheckDrawn :
    (Instr.vmovddupY ⟨[], .two false, 3, .mem (.base 0 (.d8 8))⟩).gate.Ready checking ∧
      (Instr.vmovddupY ⟨[], .two false, 3, .mem (.base 0 (.d8 8))⟩).access =
        some ⟨.read, 32, .draw 32, ⟨.base 0 (.d8 8), false, false, [], 5⟩⟩ ∧
        checking.alignCheck = true ∧
          (checking.linear ⟨.base 0 (.d8 8), false, false, [], 5⟩).toNat % 32 ≠ 0 ∧
            checking.withoutAc.Accessible .read (.draw 32) 32 ⟨.base 0 (.d8 8), false, false, [], 5⟩
              ((List.range 32).map (0x1008 + ·)) ∧
              (Config.acDraw checking.draws = true ∨ Config.acDraw checking.draws = false) :=
  ⟨witness_ready_checking _, by decide, by decide, by decide,
    accessible_of (by decide) (fun h => absurd h (by decide)), by cases Config.acDraw checking.draws <;> simp⟩

theorem witness_AccessOutcomes :
    memAccess .read (.required 16) 16 (at4 0 (.d8 8)) start = .raise .gp ∧
      memAccess .read (.required 16) 16 (at4 0 .none) (guarded .device) = .refuse .device ∧
        (Gate.sse .sse2).Ready (guarded .device) :=
  ⟨by decide, by decide, by decide, by decide, by decide, by decide⟩
/-- A state in which each check procedure raises. -/
def disabled : State := { start with cr0 := 0x60000015, cr4 := 0, cfg := { Config.launch with cpuid :=
  { mmx := false, sse := false, sse2 := false, sse3 := false, sse41 := false, avx := false, avx2 := false } } }
theorem witness_EveryRowRunsItsCheckProcedure (g : Gate) : g.check disabled = .raise .ud := by
  cases g <;> rfl
/-- #NM and #MF; with `witness_ready`, both outcomes of StopsOnlyAtGate (HalfRegisterMoves). -/
theorem witness_check_nm_mf :
    (Gate.sse .sse).check { start with cr0 := 0x60000019 } = .raise .nm ∧
      (Gate.vex .avx).check { start with cr0 := 0x60000019 } = .raise .nm ∧
      Gate.movdq2q.check { start with fpend := true } = .raise .mf := by decide
theorem witness_MissingFeature (g : Gate) :
    disabled.has g.feature = false ∧ (Instr.vmovntdqaY vexMem).gate = .vex .avx2 :=
  ⟨by cases g <;> first | rfl | (rename_i f; cases f <;> rfl), rfl⟩
theorem witness_FaultRecord :
    step (placed (guarded (.pf 6 0x1008)) [0x66, 0x0F, 0x6F, 0x08]) = .fault (.pf 6 0x400000 0x1008) ∧
      step (placed (guarded (.pf 4 0x7000)) [0x66, 0x0F, 0x6F, 0x08]) = .fault (.pf 4 0x400000 0x7000) :=
  ⟨of_faultOf (by decide), of_faultOf (by decide)⟩
theorem witness_ExceptionsOfEachRow :
    exec movdqaAt8 start = .fault (.gp 0 0x400000) ∧ exec movdqaAt8 disabled = .fault (.ud 0x400000) :=
  ⟨of_faultOf (by decide), of_faultOf (by decide)⟩

/-- MOVDQA xmm1, xmm2 (A4), loaded in each mode. -/
theorem witness_EveryStepKeepsInvariant :
    (placed start [0x66, 0x0F, 0x6F, 0xCA]).Inv ∧ (∃ t, step (placed start [0x66, 0x0F, 0x6F, 0xCA]) = .next t) ∧
      (placed start32 [0x66, 0x0F, 0x6F, 0xCA]).Inv ∧
        ∃ t, step (placed start32 [0x66, 0x0F, 0x6F, 0xCA]) = .next t :=
  ⟨⟨by decide, by decide⟩, exists_of_completes (by decide), ⟨by decide, by decide⟩, exists_of_completes (by decide)⟩
theorem witness_EveryStepKeepsProgramText :
    (placed start [0x66, 0x0F, 0x7F, 0x0E]).inText 0x400003 = true ∧
      (∀ a, (placed start [0x66, 0x0F, 0x7F, 0x0E]).inText a = true →
        (placed start [0x66, 0x0F, 0x7F, 0x0E]).mem.read ((placed start [0x66, 0x0F, 0x7F, 0x0E]).fetchLoc a) =
          (fun b : QWord => (placed start [0x66, 0x0F, 0x7F, 0x0E]).mem.read b.toNat) a) ∧
        ∃ t, step (placed start [0x66, 0x0F, 0x7F, 0x0E]) = .next t :=
  ⟨by decide, fun _ _ => rfl, exists_of_completes (by decide)⟩
/-- A store, a load, a mask, an MMX move and MOVDQ2Q complete (EachRowTouchesOnlyItsState, CompletionAdvancesRip). -/
theorem witness_completions :
    (∃ t, exec (.movdqaStore ⟨[.opSize], none, 1, .mem (.base 6 .none)⟩) start = .next t) ∧
      (∃ t, exec (.movdqaLoad ⟨[.opSize], none, 1, .mem (.base 0 .none)⟩) start32 = .next t) ∧
        (∃ t, exec (.movmskps ⟨[], none, 0, 4⟩) start = .next t) ∧
          (∃ t, exec (.movqMmLoad ⟨[], none, 1, .reg 2⟩) start = .next t) ∧
            ∃ t, exec (.movdq2q ⟨[.repne], none, 1, 3⟩) start = .next t :=
  ⟨exists_of_completes (by decide), exists_of_completes (by decide), exists_of_completes (by decide),
    exists_of_completes (by decide), exists_of_completes (by decide)⟩
/-- MOVHLPS, VMOVLPS, VMOVDQA ymm and a store: each kind of destination of UpperBitsPolicy, the second with a
destination that is no source. -/
theorem witness_UpperBitsPolicy :
    ((∃ t, exec (.movhlps ⟨[], none, 1, 2⟩) start = .next t) ∧ (Instr.movhlps ⟨[], none, 1, 2⟩).dest = .vector 1) ∧
      ((∃ t, exec (.vmovlpsLoad 3 ⟨[], .two false, 2, .base 0 .none⟩) start = .next t) ∧
        (2 : RegNum) ∉ (Instr.vmovlpsLoad 3 ⟨[], .two false, 2, .base 0 .none⟩).vectorSources ∧
          ∃ t, exec (.vmovlpsLoad 3 ⟨[], .two false, 2, .base 0 .none⟩) (start.setYmm 2 7) = .next t) ∧
        ((∃ t, exec (.vmovdqaYLoad ⟨[], .two true, 0, .mem (.base 0 .none)⟩) start = .next t) ∧
          (Instr.vmovdqaYLoad ⟨[], .two true, 0, .mem (.base 0 .none)⟩).is256 = true) ∧
          (Instr.movdqaStore ⟨[.opSize], none, 1, .mem (.base 6 .none)⟩).dest = .memory :=
  ⟨⟨exists_of_completes (by decide), by decide⟩, ⟨exists_of_completes (by decide), by decide,
    exists_of_completes (by decide)⟩, ⟨exists_of_completes (by decide), by decide⟩, by decide⟩
/-- SharedOpcodesAreToldApartByMod: register and memory forms that are well formed in each mode. -/
theorem witness_SharedOpcodes (m : Mode) :
    wfLegacy m .none ((⟨[], none, 1, 2⟩ : Legacy RegField).map RM.reg) = true ∧
      wfLegacy m .none ((⟨[.seg .es], none, 1, .base 0 .none⟩ : Legacy MemOp).map RM.mem) = true ∧
        (∀ v ∈ [(0 : RegNum), 7], wfVex m .m0F v (vexReg.map RM.reg) = true ∧ wfVex m .m0F v (vexMem.map RM.mem) = true) ∧
          wfVex .mode64 .m0F 15 (vexReg.map RM.reg) = true := by cases m <;> decide
theorem witness_StepRuns :
    (placed start [0x0F, 0x12, 0xC8]).Runs ∧ (placed start [0x0F, 0x12, 0xC8]).atEnd = false ∧
      decode .mode64 (placed start [0x0F, 0x12, 0xC8]).fetchBytes = .instr (.movhlps ⟨[], none, 1, 0⟩) ∧
        (Instr.movhlps ⟨[], none, 1, 0⟩).wf .mode64 = true ∧
          (placed start [0x0F, 0x12, 0xC8]).fetchBytes =
            encode (.movhlps ⟨[], none, 1, 0⟩) ++ List.replicate 12 0 :=
  ⟨⟨rfl, rfl, rfl, rfl⟩, by decide, by decide, by decide, by decide⟩
/-- The bytes of StepsThatExecuteNothing: reserved, too long, outside the table, refused for the prefixes, refused in
Mode32; and a run that has ended. -/
theorem witness_StepsThatExecuteNothing :
    Meets start .mode64 [0xC5, 0xF3, 0x12, 0xCA] ∧ decode .mode64 [0xC5, 0xF3, 0x12, 0xCA] = .ud .reservedVvvv ∧
      Meets start .mode64 (List.replicate 15 0x66) ∧ decode .mode64 (List.replicate 15 0x66) = .outOfBytes ∧
        Meets start .mode64 [0x90] ∧ decode .mode64 [0x90] = .refused .outsideTable ∧
          Meets start .mode64 [0xF3, 0xF2, 0x0F, 0x12, 0xCA] ∧
            decode .mode64 [0xF3, 0xF2, 0x0F, 0x12, 0xCA] = .refused .prefixSet ∧
              Meets start32 .mode32 [0xC4, 0xC1, 0x79, 0x6F, 0x08] ∧
                decode .mode32 [0xC4, 0xC1, 0x79, 0x6F, 0x08] = .refused .vexMode32 ∧
                  ({ placed start [0x0F, 0x12, 0xC8] with rip := 0x400003 }).atEnd = true :=
  ⟨meets_start (by decide), by decide, meets_start (by decide), by decide, meets_start (by decide), by decide,
    meets_start (by decide), by decide, meets_start32 (by decide), by decide, by decide⟩
theorem witness_contexts :
    State.powerUp.cr0.getLsbD 0 = false ∧ (0x20002 : QWord).getLsbD 17 = true ∧
      (0x102 : QWord).getLsbD 17 = false ∧ (0x102 : QWord).getLsbD 8 = true ∧ start.cr0.getLsbD 0 = true := by decide
theorem witness_PrivilegeAndMemoryType :
    (start.am && start.ac) = false ∧ (guarded (.pf 6 0x1008)).cfg.access ≠ [] ∧
      (∀ rule ∈ (guarded (.pf 6 0x1008)).cfg.access, rule.cpl = none) ∧
        ((guarded (.pf 6 0x1008)).am && (guarded (.pf 6 0x1008)).ac) = false := by
  decide
theorem witness_LaunchPremise (f : Feature) :
    start.Enabled ∧ start.has f = true ∧ start.fpend = false ∧ avx2Only.Enabled ∧ avx2Only.has .avx = false :=
  ⟨⟨by decide, by decide, by decide, by decide, fun _ => ⟨by decide, by decide⟩⟩, by cases f <;> decide, rfl,
    ⟨by decide, by decide, by decide, by decide, fun h => absurd h (by decide)⟩, by decide⟩
/-- The bounds of LA_BITS (CanonicalAddresses) and of MOVNTI's two lengths. -/
theorem witness_CanonicalAddresses :
    canonical 1 0 = true ∧ canonical 64 0x8000000000000000 = true ∧ canonical 48 0x7FFFFFFFFFFF = true ∧
      canonical 48 0x800000000000 = false ∧ canonical 48 0xFFFF800000000000 = true := by decide

end Sys2Proof.Tests
end

section
/-! Bytes and values (20_memory.md R51, R72): the bytes of a value, and the value read back from them. -/

namespace Sys2Proof.Machine

/-- Byte k of the little-endian bytes (R10). -/
theorem getElem?_leBytes {w n k : Nat} (v : BitVec w) (h : k < n) :
    (leBytes n v)[k]? = some (v.extractLsb' (8 * k) 8) := by
  simp [leBytes, h]

/-- The little-endian bytes of a whole number of bytes read as the value (R51). -/
theorem leValue_leBytes {w : Nat} (v : BitVec w) (h : 8 ∣ w) : leValue w (leBytes (w / 8) v) = v := by
  refine BitVec.eq_of_getLsbD_eq fun i hi => ?_
  have hk : i / 8 < w / 8 := Nat.div_lt_div_of_lt_of_dvd h hi
  rw [getLsbD_leValue, List.getD_eq_getElem?_getD, getElem?_leBytes v hk, Option.getD_some,
    BitVec.getLsbD_extractLsb', Nat.div_add_mod]
  simp [hi, Nat.mod_lt]

/-- A value written at distinct locations is read back (R51, R72). -/
theorem leValue_readAll_writeAll {w : Nat} (v : BitVec w) {mem : Memory} {locs : List Nat} (h : 8 ∣ w)
    (hm : mem.wf) (hn : locs.Nodup) (hl : ∀ a ∈ locs, a < 2 ^ 64) (hlen : locs.length = w / 8) :
    leValue w ((mem.writeAll locs (leBytes (w / 8) v)).readAll locs) = v := by
  rw [Memory.readAll_writeAll hm hn hl (by simp [hlen]), leValue_leBytes v h]

/-- Settles O16. -/
theorem storedValueIsReadBack : Obligations.StoredValueIsReadBack := fun _ v h =>
  ⟨fun _ hk => getElem?_leBytes v hk, leValue_leBytes v h,
    fun _ _ hm hn hl hlen => leValue_readAll_writeAll v h hm hn hl hlen⟩

end Sys2Proof.Machine
end

section
/-! The step and the access of an instruction: what the step executes (R14, R304), and the outcome of an instruction
whose access stops (R58). -/

namespace Sys2Proof.Machine

/-- A state in which the model runs has no context that refuses (D2, D29). -/
theorem State.Runs.contextRefusal {s : State} (h : s.Runs) : s.contextRefusal = none := by
  obtain ⟨hpe, hvm, htf, hbp⟩ := h
  simp [State.contextRefusal, hpe, hvm, htf, hbp]

/-- What a step does with what the decoder reads at RIP (R110, R14, R261, R118). -/
def State.outcomeOf (s : State) : Decoded → Host.Outcome State Fault Refusal
  | .instr i => exec i s
  | .ud _ => raise .ud s
  | .outOfBytes => raise .gp s
  | .refused r => .refused (decodeRefusal r)

/-- Before the end of a run, a step goes by what the decoder reads at RIP. -/
theorem step_of_runs {s : State} (hr : s.Runs) (he : s.atEnd = false) :
    step s = s.outcomeOf (decode s.cfg.mode s.fetchBytes) := by
  rw [step, hr.contextRefusal, he]
  cases decode s.cfg.mode s.fetchBytes <;> rfl

/-- Before the end of a run, a step executes the instruction decoded at RIP (R14). -/
theorem step_of_decode {s : State} {i : Instr} (hr : s.Runs) (he : s.atEnd = false)
    (hd : decode s.cfg.mode s.fetchBytes = .instr i) : step s = exec i s := by
  rw [step_of_runs hr he, hd, State.outcomeOf]

/-- Settles O53. -/
theorem stepRunsDecodedInstruction : Obligations.StepRunsDecodedInstruction := fun _ _ hr he hd =>
  step_of_decode hr he hd

/-- Where its check procedure lets pass, an instruction with a memory operand is the checks of its access, then what
those that pass lead to. -/
theorem exec_eq_access {i : Instr} {s : State} {a : MemAccess} (hr : i.gate.Ready s) (ha : i.access = some a) :
    ∃ k, exec i s = complete i.len s ((memAccess a.kind a.align a.size a.ref s).bind k) := by
  obtain ⟨f, b, -, -, hx⟩ := exec_effect i
  exact ⟨_, by rw [hx, Gate.check_of_ready hr, Check.bind_ok_left, afterGate, ha]⟩

/-- Settles O38. -/
theorem accessOutcomesAreTheInstructions : Obligations.AccessOutcomesAreTheInstructions := by
  intro i s a hr ha
  obtain ⟨k, hx⟩ := exec_eq_access hr ha
  refine ⟨fun e he => ?_, fun r he => ?_⟩
  · rw [hx, complete_eq_fault]
    exact ⟨e, Check.bind_eq_raise.2 (.inl he), rfl⟩
  · rw [hx, complete_eq_refused]
    exact Check.bind_eq_refuse.2 (.inl he)

end Sys2Proof.Machine
end

section
/-! The decoder reads back what the encoder writes (R80 to R98, R110, R111): prefixes, ModRM and what follows it,
the VEX prefix, and the rows of the table. -/

namespace Sys2Proof

/-! ### ModRM, SIB and displacement read back (R85 to R87) -/

theorem read16_bytes16 (d : BitVec 16) (rest : List Byte) : read16 (bytes16 d ++ rest) = some (d, rest) := by
  have h : d.extractLsb' 8 8 ++ d.extractLsb' 0 8 = d := by
    rw [BitVec.extractLsb'_append_extractLsb'_eq_extractLsb', BitVec.extractLsb'_eq_self]
    rfl
  simp [bytes16, read16, h]

theorem read32_bytes32 (d : BitVec 32) (rest : List Byte) : read32 (bytes32 d ++ rest) = some (d, rest) := by
  have h : d.extractLsb' 24 8 ++ d.extractLsb' 16 8 ++ d.extractLsb' 8 8 ++ d.extractLsb' 0 8 = d := by
    rw [BitVec.extractLsb'_append_extractLsb'_eq_extractLsb', BitVec.extractLsb'_append_extractLsb'_eq_extractLsb',
      BitVec.extractLsb'_append_extractLsb'_eq_extractLsb', BitVec.extractLsb'_eq_self] <;> rfl
  simp [bytes32, read32, h]

@[simp] theorem readDisp_bytes (d : Disp) (rest : List Byte) : readDisp d.mod (d.bytes ++ rest) = some (d, rest) := by
  cases d <;> simp [readDisp, Disp.mod, Disp.bytes, read32_bytes32]

@[simp] theorem readDisp16_bytes (d : Disp16) (rest : List Byte) :
    readDisp16 d.mod (d.bytes ++ rest) = some (d, rest) := by
  cases d <;> simp [readDisp16, Disp16.mod, Disp16.bytes, read16_bytes16]

@[simp] theorem modRM_mod (mod : BitVec 2) (reg rm : BitVec 3) : (modRM mod reg rm).extractLsb' 6 2 = mod := by
  revert mod reg rm; decide
@[simp] theorem modRM_reg (mod : BitVec 2) (reg rm : BitVec 3) : (modRM mod reg rm).extractLsb' 3 3 = reg := by
  revert mod reg rm; decide
@[simp] theorem modRM_rm (mod : BitVec 2) (reg rm : BitVec 3) : (modRM mod reg rm).extractLsb' 0 3 = rm := by
  revert mod reg rm; decide
theorem sibByte_eq_modRM : sibByte = modRM := rfl

@[simp] theorem Disp.mod_ne_three (d : Disp) : d.mod ≠ 3#2 := by cases d <;> simp [Disp.mod]
@[simp] theorem Disp16.mod_ne_three (d : Disp16) : d.mod ≠ 3#2 := by cases d <;> simp [Disp16.mod]
@[simp] theorem Disp.mod_eq_zero {d : Disp} : d.mod = 0#2 ↔ d = .none := by cases d <;> simp [Disp.mod]
@[simp] theorem Disp16.mod_eq_zero {d : Disp16} : d.mod = 0#2 ↔ d = .none := by cases d <;> simp [Disp16.mod]

/-- The decoder reads back ModRM, SIB and the displacement of a well-formed memory operand, in each of its forms. -/
theorem readRM_memBytes {a16 : Bool} {op : MemOp} (reg : BitVec 3) (rest : List Byte) (h : wfMem a16 op = true) :
    readRM a16 (memBytes reg op ++ rest) = some (reg, .mem op, rest) := by
  cases op with
  | base rm d =>
    obtain ⟨⟨rfl, h4⟩, h5⟩ : (a16 = false ∧ rm ≠ 4#3) ∧ (rm ≠ 5#3 ∨ d ≠ .none) := by simpa [wfMem] using h
    have h5 : ¬(d = .none ∧ rm = 5#3) := by tauto
    simp [memBytes, readRM, readMem, h4, h5]
  | sib sc ix bs d =>
    obtain ⟨rfl, h5⟩ : a16 = false ∧ (bs ≠ 5#3 ∨ d ≠ .none) := by simpa [wfMem] using h
    have h5 : ¬(d = .none ∧ bs = 5#3) := by tauto
    simp [memBytes, readRM, readMem, sibByte_eq_modRM, h5]
  | sibNoBase sc ix d =>
    obtain rfl : a16 = false := by simpa [wfMem] using h
    simp [memBytes, readRM, readMem, sibByte_eq_modRM, read32_bytes32]
  | disp32 d =>
    obtain rfl : a16 = false := by simpa [wfMem] using h
    simp [memBytes, readRM, readMem, read32_bytes32]
  | base16 rm d =>
    obtain ⟨rfl, h6⟩ : a16 = true ∧ (rm ≠ 6#3 ∨ d ≠ .none) := by simpa [wfMem] using h
    have h6 : ¬(d = .none ∧ rm = 6#3) := by tauto
    simp [memBytes, readRM, readMem16, h6]
  | disp16 d =>
    obtain rfl : a16 = true := by simpa [wfMem] using h
    simp [memBytes, readRM, readMem16, read16_bytes16]

/-- The decoder reads back the ModRM byte of a well-formed r/m operand and what follows it. -/
theorem readRM_rmBytes {a16 : Bool} {rm : RM} (reg : BitVec 3) (rest : List Byte) (h : wfRM a16 rm = true) :
    readRM a16 (rmBytes reg rm ++ rest) = some (reg, rm, rest) := by
  cases rm with
  | reg n => simp [rmBytes, readRM]
  | mem op => exact readRM_memBytes reg rest h

/-! ### Prefixes read back (R81, R84, R117) -/

/-- What the decoder reads from the prefix bytes of an instruction: the legacy prefixes, then REX. -/
def prefixItems (ps : List Prefix) (rex : Option Rex) : List PrefixItem :=
  ps.map PrefixItem.legacy ++ rex.toList.map PrefixItem.rex

@[simp] theorem readItem_prefix (m : Mode) (p : Prefix) : readItem m p.byte = some (.legacy p) := by
  cases p with
  | seg s => cases s <;> rfl
  | _ => rfl

@[simp] theorem readItem_rex (r : Rex) : readItem .mode64 r.byte = some (.rex r) := by
  obtain ⟨w, r, x, b⟩ := r
  cases w <;> cases r <;> cases x <;> cases b <;> rfl

/-- The decoder reads the prefixes back, up to the first byte that is none. -/
theorem readPrefixes_bytes {m : Mode} {b : Byte} (ps : List Prefix) {rex : Option Rex} (rest : List Byte)
    (hrex : m = .mode64 ∨ rex = none) (hb : readItem m b = none) :
    readPrefixes m (ps.map Prefix.byte ++ (rex.toList.map Rex.byte ++ b :: rest)) =
      (prefixItems ps rex, b :: rest) := by
  induction ps with
  | nil =>
    cases rex with
    | none => simp [prefixItems, readPrefixes, hb]
    | some r =>
      obtain rfl : m = .mode64 := by simpa using hrex
      simp [prefixItems, readPrefixes, hb]
  | cons p ps ih => simp [readPrefixes, ih, prefixItems]

@[simp] theorem splitItems_prefixItems (ps : List Prefix) (rex : Option Rex) :
    splitItems (prefixItems ps rex) = some (ps, rex) := by
  induction ps with
  | nil => cases rex <;> rfl
  | cons p ps ih =>
    have h : prefixItems (p :: ps) rex = .legacy p :: prefixItems ps rex := rfl
    rw [h, splitItems, ih, Option.map_some]

@[simp] theorem legacyOf_prefixItems (ps : List Prefix) (rex : Option Rex) :
    legacyOf (prefixItems ps rex) = ps := by
  cases rex <;> simp [legacyOf, prefixItems]

theorem lock_mem_prefixItems {ps : List Prefix} {rex : Option Rex} :
    PrefixItem.legacy .lock ∈ prefixItems ps rex ↔ .lock ∈ ps := by
  simp [prefixItems]

theorem wfPrefixes_iff {pp : SimdPrefix} {ps : List Prefix} :
    wfPrefixes pp ps = true ↔
      (ps.filter Prefix.isSeg).length ≤ 1 ∧ ps.count .addrSize ≤ 1 ∧ ps.filter Prefix.isSimd = pp.required ∧
        Prefix.lock ∉ ps := by
  simp only [wfPrefixes, Bool.and_eq_true, decide_eq_true_eq, and_assoc]

/-- I.pp of a well-formed prefix set. -/
theorem simdOf_of_wfPrefixes {pp : SimdPrefix} {ps : List Prefix} (h : wfPrefixes pp ps = true) :
    simdOf ps = some pp := by
  obtain ⟨hseg, haddr, hsimd, hlock⟩ := wfPrefixes_iff.1 h
  rw [simdOf, if_pos ⟨hseg, haddr, hlock⟩, hsimd]
  cases pp <;> rfl

/-- No prefix of a well-formed VEX instruction forbids VEX (R98 (a)). -/
theorem any_forbidsVex_of_wfPrefixes {ps : List Prefix} (h : wfPrefixes .none ps = true) :
    (prefixItems ps none).any PrefixItem.forbidsVex = false := by
  obtain ⟨-, -, hsimd, hlock⟩ := wfPrefixes_iff.1 h
  have hs : ∀ p ∈ ps, p.isSimd = false := by simpa [SimdPrefix.required] using hsimd
  have hl : ∀ p ∈ ps, p ≠ .lock := fun p hp hpl => hlock (hpl ▸ hp)
  simpa [prefixItems, PrefixItem.forbidsVex] using fun p hp => ⟨hs p hp, hl p hp⟩

/-! ### Legacy instructions read back (R80, R110, R111) -/

/-- After the prefixes, 0F starts a legacy opcode (R110). -/
theorem decode_of_readPrefixes_0F {m : Mode} {bs rest : List Byte} {items : List PrefixItem}
    (h : readPrefixes m bs = (items, 0x0F :: rest)) : decode m bs = decodeLegacy m items rest := by
  simp only [decode, h]
  rfl

/-- A byte is a legacy opcode of this map under this mandatory prefix: it is no escape byte, and some row has it
(R83, R110). -/
def isLegacyOpcode (pp : SimdPrefix) (map : OpMap) (opc : Byte) : Bool :=
  (decide (map = .m0F38) || decide (opc ≠ 0x38) && decide (opc ≠ 0x3A)) &&
    legacyAgrees anyPrefixMask (rowKey false 0 map.code false false 0xF false opc) &&
      legacyAgrees opcodeMask (rowKey false pp.code map.code false false 0xF false opc)

/-- The legacy row of an opcode under REX.W and the kind of the r/m operand (R109, R110). -/
def legacyRow (pp : SimdPrefix) (map : OpMap) (opc : Byte) (w rf : Bool) : Option LegacyRow :=
  legacyRows.find? fun row => rowKey false pp.code map.code w false 0xF rf opc &&& row.mask == row.pattern

/-- The instruction that the legacy row of an encoding makes, if there is one (R110, R111). -/
def legacyInstr (pp : SimdPrefix) (map : OpMap) (opc : Byte) (e : Legacy RM) : Option Instr :=
  (legacyRow pp map opc (rexW e.rex) e.rm.isReg).bind (·.make e)

/-- The decoder finds the opcode behind the escape bytes of its map (R83). -/
theorem decode_legacyBytes {m : Mode} {map : OpMap} {opc : Byte} {e : Legacy RM} (rest : List Byte)
    (hrex : m = .mode64 ∨ e.rex = none) (hesc : map = .m0F38 ∨ opc ≠ 0x38 ∧ opc ≠ 0x3A) :
    decode m (legacyBytes map opc e ++ rest) =
      decodeLegacyOp m (prefixItems e.prefixes e.rex) map opc (rmBytes e.reg e.rm ++ rest) := by
  have h0F : readItem m 0x0F = none := by cases m <;> rfl
  simp only [legacyBytes, List.append_assoc, List.cons_append]
  cases map with
  | m0F =>
    obtain ⟨h38, h3A⟩ : opc ≠ 0x38 ∧ opc ≠ 0x3A := by simpa using hesc
    refine (decode_of_readPrefixes_0F (readPrefixes_bytes _ _ hrex h0F)).trans ?_
    exact (if_neg h38).trans (if_neg h3A)
  | m0F38 => exact decode_of_readPrefixes_0F (readPrefixes_bytes _ _ hrex h0F)

/-- A legacy opcode after accepted prefixes goes to the rows (R117). -/
theorem decodeLegacyOp_of_wf {m : Mode} {pp : SimdPrefix} {map : OpMap} {opc : Byte} {ps : List Prefix}
    {rex : Option Rex} {bs : List Byte} (hps : wfPrefixes pp ps = true)
    (hany : legacyAgrees anyPrefixMask (rowKey false 0 map.code false false 0xF false opc) = true)
    (hopc : legacyAgrees opcodeMask (rowKey false pp.code map.code false false 0xF false opc) = true) :
    decodeLegacyOp m (prefixItems ps rex) map opc bs = decodeLegacyRM m ps rex pp map opc bs := by
  obtain ⟨-, -, -, hlock⟩ := wfPrefixes_iff.1 hps
  rw [← lock_mem_prefixItems (rex := rex)] at hlock
  rw [decodeLegacyOp, if_pos hany, if_neg hlock]
  simp only [splitItems_prefixItems, simdOf_of_wfPrefixes hps, if_pos hopc]

/-- The row of a well-formed encoding makes its instruction. -/
theorem decodeLegacyRM_rmBytes {m : Mode} {pp : SimdPrefix} {map : OpMap} {opc : Byte} {e : Legacy RM} {i : Instr}
    (rest : List Byte) (hrm : wfRM (is16 m e.prefixes) e.rm = true) (hi : legacyInstr pp map opc e = some i) :
    decodeLegacyRM m e.prefixes e.rex pp map opc (rmBytes e.reg e.rm ++ rest) = .instr i := by
  obtain ⟨row, hrow, hmake⟩ := Option.bind_eq_some_iff.1 hi
  rw [legacyRow] at hrow
  simp only [decodeLegacyRM, readRM_rmBytes _ _ hrm, hrow, hmake]

theorem wfLegacy_iff {m : Mode} {pp : SimdPrefix} {e : Legacy RM} :
    wfLegacy m pp e = true ↔
      wfPrefixes pp e.prefixes = true ∧ (m = .mode64 ∨ e.rex = none) ∧ wfRM (is16 m e.prefixes) e.rm = true := by
  simp [wfLegacy, and_assoc]

/-- The decoder reads a well-formed legacy encoding as the instruction that its row makes. -/
theorem decode_legacy {m : Mode} {pp : SimdPrefix} {map : OpMap} {opc : Byte} {e : Legacy RM} {i : Instr}
    {rest : List Byte} (h : wfLegacy m pp e = true) (hopc : isLegacyOpcode pp map opc = true)
    (hi : legacyInstr pp map opc e = some i) : decode m (legacyBytes map opc e ++ rest) = .instr i := by
  obtain ⟨hps, hrex, hrm⟩ := wfLegacy_iff.1 h
  obtain ⟨⟨hesc, hany⟩, hrow⟩ : ((map = .m0F38 ∨ opc ≠ 0x38 ∧ opc ≠ 0x3A) ∧ _ = true) ∧ _ = true := by
    simpa only [isLegacyOpcode, Bool.and_eq_true, Bool.or_eq_true, decide_eq_true_eq] using hopc
  rw [decode_legacyBytes rest hrex hesc, decodeLegacyOp_of_wf hps hany hrow, decodeLegacyRM_rmBytes rest hrm hi]

/-! ### VEX instructions read back (R91 to R98, R110, R111) -/

/-- After the prefixes, C4 or C5 starts a VEX prefix, where no prefix before it forbids it (R98, R110). -/
theorem decode_of_readPrefixes_vex {m : Mode} {bs rest rest' : List Byte} {items : List PrefixItem} {b0 : Byte}
    {v : VexPrefix} (h : readPrefixes m bs = (items, b0 :: rest)) (hb : b0 = 0xC4 ∨ b0 = 0xC5)
    (hs : startsVex m rest = some true) (hf : items.any PrefixItem.forbidsVex = false)
    (hv : readVex b0 rest = some (v, rest')) : decode m bs = decodeVex m items v rest' := by
  simp only [decode, h, if_pos hb, hs, hf, hv]
  rfl

/-- What the decoder reads from the VEX prefix of an instruction. -/
def vexPrefixOf (pp : SimdPrefix) (map : OpMap) (l : Bool) (v : RegNum) (f : VexForm) : VexPrefix :=
  { form := f, mmmmm := map.code, vvvv := ~~~v, l := l, pp := pp.code }

theorem wfVex_iff {m : Mode} {map : OpMap} {v : RegNum} {e : Vex RM} :
    wfVex m map v e = true ↔
      wfPrefixes .none e.prefixes = true ∧ wfVexForm m map e.form = true ∧ (m = .mode64 ∨ v.toNat ≤ 7) ∧
        wfRM (is16 m e.prefixes) e.rm = true := by
  simp [wfVex, and_assoc]

theorem readVex2_payload (r l : Bool) (vvvv : BitVec 4) (pp : BitVec 2) :
    readVex2 (BitVec.ofBool (!r) ++ vvvv ++ BitVec.ofBool l ++ pp) = ⟨.two r, 1, vvvv, l, pp⟩ := by
  revert r l vvvv pp; decide

theorem readVex3_payload (r x b w l : Bool) (mmmmm : BitVec 5) (vvvv : BitVec 4) (pp : BitVec 2) :
    readVex3 (BitVec.ofBool (!r) ++ BitVec.ofBool (!x) ++ BitVec.ofBool (!b) ++ mmmmm)
      (BitVec.ofBool w ++ vvvv ++ BitVec.ofBool l ++ pp) = ⟨.three r x b w, mmmmm, vvvv, l, pp⟩ := by
  have h1 : ∀ (r x b : Bool) (mmmmm : BitVec 5),
      let b1 : Byte := BitVec.ofBool (!r) ++ BitVec.ofBool (!x) ++ BitVec.ofBool (!b) ++ mmmmm
      (!b1.getLsbD 7) = r ∧ (!b1.getLsbD 6) = x ∧ (!b1.getLsbD 5) = b ∧ b1.extractLsb' 0 5 = mmmmm := by decide
  have h2 : ∀ (w l : Bool) (vvvv : BitVec 4) (pp : BitVec 2),
      let b2 : Byte := BitVec.ofBool w ++ vvvv ++ BitVec.ofBool l ++ pp
      b2.getLsbD 7 = w ∧ b2.extractLsb' 3 4 = vvvv ∧ b2.getLsbD 2 = l ∧ b2.extractLsb' 0 2 = pp := by decide
  obtain ⟨hr, hx, hb, hm⟩ := h1 r x b mmmmm
  obtain ⟨hw, hv, hl, hp⟩ := h2 w l vvvv pp
  simp only [readVex3, hr, hx, hb, hm, hw, hv, hl, hp]

/-- With R = 0 and a vvvv that names one of the registers 0 to 7, bits 7:6 of the payload are 11b (R98 (c)). -/
theorem vexPayload_bits76 (v : RegNum) (l : Bool) (pp : BitVec 2) (hv : v.toNat ≤ 7) :
    (BitVec.ofBool (!false) ++ ~~~v ++ BitVec.ofBool l ++ pp).extractLsb' 6 2 = 3#2 := by
  revert v l pp; decide

/-- A vvvv that names one of the registers 0 to 7 has its top bit set (R95, R98 (c)). -/
theorem getLsbD_vvvv (v : RegNum) (hv : v.toNat ≤ 7) : (~~~v).getLsbD 3 = true := by
  revert v; decide

/-- The bytes of a VEX prefix that is well formed in the mode start a VEX prefix in it, and are read back (R92, R93,
R98 (c)). -/
theorem readVex_vexPrefixBytes {m : Mode} {map : OpMap} {v : RegNum} {f : VexForm} (pp : SimdPrefix) (l : Bool)
    (rest : List Byte) (hf : wfVexForm m map f = true) (hv : m = .mode64 ∨ v.toNat ≤ 7) :
    ∃ b0 bs, vexPrefixBytes f map (~~~v) l pp.code ++ rest = b0 :: bs ∧ (b0 = 0xC4 ∨ b0 = 0xC5) ∧
      startsVex m bs = some true ∧ readVex b0 bs = some (vexPrefixOf pp map l v f, rest) := by
  cases f with
  | two r =>
    refine ⟨_, _, rfl, .inr rfl, ?_, ?_⟩
    · cases m with
      | mode64 => rfl
      | mode32 =>
        obtain ⟨rfl, rfl⟩ : map = .m0F ∧ r = false := by simpa [wfVexForm] using hf
        have h := vexPayload_bits76 v l pp.code (by simpa using hv)
        exact congrArg some (beq_iff_eq.2 h)
    · obtain ⟨rfl, -⟩ : map = .m0F ∧ _ := by simpa [wfVexForm] using hf
      simp [readVex, readVex2_payload, vexPrefixOf, OpMap.code]
  | three r x b w =>
    refine ⟨_, _, rfl, .inl rfl, ?_, ?_⟩
    · cases m with
      | mode64 => rfl
      | mode32 =>
        obtain ⟨⟨rfl, rfl⟩, rfl⟩ : (r = false ∧ x = false) ∧ b = false := by simpa [wfVexForm] using hf
        cases map <;> rfl
    · simp [readVex, readVex3_payload, vexPrefixOf]

/-- The decoder finds what stands behind a VEX prefix. -/
theorem decode_vexBytes {m : Mode} {map : OpMap} {v : RegNum} {e : Vex RM} (pp : SimdPrefix) (l : Bool) (opc : Byte)
    (rest : List Byte) (hps : wfPrefixes .none e.prefixes = true) (hf : wfVexForm m map e.form = true)
    (hv : m = .mode64 ∨ v.toNat ≤ 7) :
    decode m (vexBytes pp map l v opc e ++ rest) =
      decodeVex m (prefixItems e.prefixes none) (vexPrefixOf pp map l v e.form)
        (opc :: (rmBytes e.reg e.rm ++ rest)) := by
  obtain ⟨b0, bs, hbytes, hb, hs, hread⟩ :=
    readVex_vexPrefixBytes pp l (opc :: (rmBytes e.reg e.rm ++ rest)) hf hv
  have hitem : readItem m b0 = none := by rcases hb with rfl | rfl <;> cases m <;> rfl
  have hpre := readPrefixes_bytes e.prefixes (rex := none) bs (.inr rfl) hitem
  refine decode_of_readPrefixes_vex (b0 := b0) ?_ hb hs (any_forbidsVex_of_wfPrefixes hps) hread
  simpa [vexBytes, hbytes] using hpre

/-- In either mode, a well-formed VEX prefix is not one that Mode32 refuses (R98 (c), D9). -/
theorem vexPrefixOf_not_refused {m : Mode} {map : OpMap} {v : RegNum} {f : VexForm} (pp : SimdPrefix) (l : Bool)
    (hf : wfVexForm m map f = true) (hv : m = .mode64 ∨ v.toNat ≤ 7) :
    ¬(m = .mode32 ∧ ((vexPrefixOf pp map l v f).form.b = true ∨
      (vexPrefixOf pp map l v f).vvvv.getLsbD 3 = false)) := by
  rintro ⟨rfl, hb | hb⟩
  · cases f with
    | two r => cases hb
    | three r x b w =>
      obtain ⟨-, hb'⟩ : (r = false ∧ x = false) ∧ b = false := by simpa [wfVexForm] using hf
      exact Bool.false_ne_true (hb'.symm.trans hb)
  · exact Bool.false_ne_true (hb.symm.trans (getLsbD_vvvv v (by simpa using hv)))

/-- Bits of a key other than W (15) and vvvv (13:10) do not depend on W and vvvv (R109). -/
theorem getLsbD_rowKey_congr {i : Nat} (hi : (i < 10 ∨ 14 ≤ i) ∧ i ≠ 15) (v : Bool) (pp : BitVec 2)
    (map : BitVec 5) (w w' l : Bool) (vvvv vvvv' : BitVec 4) (rf : Bool) (opc : Byte) :
    (rowKey v pp map w l vvvv rf opc).getLsbD i = (rowKey v pp map w' l vvvv' rf opc).getLsbD i := by
  simp only [rowKey, BitVec.getLsbD_append]
  grind

/-- No VEX row looks at W or vvvv (R111). -/
theorem vexRows_mask : ∀ row ∈ vexRows, ∀ i < 24, row.mask.getLsbD i = true → (i < 10 ∨ 14 ≤ i) ∧ i ≠ 15 := by
  decide

/-- The VEX row of an opcode, with W = 0 and vvvv = 1111b in the key. -/
def vexRow (pp : BitVec 2) (map : BitVec 5) (l rf : Bool) (opc : Byte) : Option VexRow :=
  vexRows.find? fun row => rowKey true pp map false l 0xF rf opc &&& row.mask == row.pattern

/-- The VEX row that a key selects does not depend on W and vvvv. -/
theorem find?_vexRows (pp : BitVec 2) (map : BitVec 5) (w l : Bool) (vvvv : BitVec 4) (rf : Bool) (opc : Byte) :
    (vexRows.find? fun row => rowKey true pp map w l vvvv rf opc &&& row.mask == row.pattern) =
      vexRow pp map l rf opc := by
  refine List.find?_congr fun row hrow => congrArg (· == row.pattern) (BitVec.eq_of_getLsbD_eq fun i hi => ?_)
  rw [BitVec.getLsbD_and, BitVec.getLsbD_and]
  cases hm : row.mask.getLsbD i with
  | false => simp
  | true => rw [getLsbD_rowKey_congr (vexRows_mask row hrow i hi hm)]

/-- The instruction that a VEX row makes of an encoding, where vvvv, naming register `v`, is 1111b if it must be
(R95, R114). -/
def VexRow.instr (row : VexRow) (v : RegNum) (e : Vex RM) : Option Instr :=
  if row.nds || v == 0 then row.make v e else none

/-- The instruction that the VEX row of an encoding makes, if there is one (R110, R111). -/
def vexInstr (pp : SimdPrefix) (map : OpMap) (l : Bool) (v : RegNum) (opc : Byte) (e : Vex RM) : Option Instr :=
  (vexRow pp.code map.code l e.rm.isReg opc).bind (·.instr v e)

/-- Some VEX row has this opcode in this map, under this mandatory prefix. -/
def isVexOpcode (pp : SimdPrefix) (map : OpMap) (opc : Byte) : Bool :=
  vexAgrees opcodeMask (rowKey true pp.code map.code false false 0xF false opc)

/-- The row of a well-formed encoding makes its instruction. -/
theorem decodeVexRM_rmBytes {m : Mode} {pp : SimdPrefix} {map : OpMap} {l : Bool} {v : RegNum} {opc : Byte}
    {e : Vex RM} {i : Instr} (rest : List Byte) (hrm : wfRM (is16 m e.prefixes) e.rm = true)
    (hi : vexInstr pp map l v opc e = some i) :
    decodeVexRM m e.prefixes (vexPrefixOf pp map l v e.form) opc (rmBytes e.reg e.rm ++ rest) = .instr i := by
  obtain ⟨row, hrow, hmake⟩ := Option.bind_eq_some_iff.1 hi
  obtain ⟨hv, hmake⟩ : (row.nds || v == 0) = true ∧ row.make v e = some i := by
    simpa [VexRow.instr] using hmake
  have hvvvv : (!row.nds && ~~~v != 0xF) = false := by
    rcases Bool.or_eq_true_iff.1 hv with h | h
    · simp [h]
    · simp [beq_iff_eq.1 h]
  simp only [decodeVexRM, readRM_rmBytes _ _ hrm, find?_vexRows, vexPrefixOf, hrow, hvvvv, BitVec.not_not]
  simp [hmake]

/-- A VEX opcode after a VEX prefix that Mode32 does not refuse goes to the rows (R97, R117). -/
theorem decodeVex_of_wf {m : Mode} {pp : SimdPrefix} {map : OpMap} {l : Bool} {v : RegNum} {f : VexForm} {opc : Byte}
    {ps : List Prefix} {bs : List Byte} (hps : wfPrefixes .none ps = true) (hf : wfVexForm m map f = true)
    (hv : m = .mode64 ∨ v.toNat ≤ 7) (hopc : isVexOpcode pp map opc = true) :
    decodeVex m (prefixItems ps none) (vexPrefixOf pp map l v f) (opc :: bs) =
      decodeVexRM m ps (vexPrefixOf pp map l v f) opc bs := by
  have hmap : ¬(map.code ≠ 1 ∧ map.code ≠ 2 ∧ map.code ≠ 3) := by cases map <;> decide
  rw [decodeVex, if_neg (vexPrefixOf_not_refused pp l hf hv)]
  refine (if_neg hmap).trans ((if_pos hopc).trans ?_)
  simp only [legacyOf_prefixItems, simdOf_of_wfPrefixes hps]

/-- The decoder reads a well-formed VEX encoding as the instruction that its row makes. -/
theorem decode_vex {m : Mode} {pp : SimdPrefix} {map : OpMap} {l : Bool} {v : RegNum} {opc : Byte} {e : Vex RM}
    {i : Instr} {rest : List Byte} (h : wfVex m map v e = true) (hopc : isVexOpcode pp map opc = true)
    (hi : vexInstr pp map l v opc e = some i) : decode m (vexBytes pp map l v opc e ++ rest) = .instr i := by
  obtain ⟨hps, hf, hv, hrm⟩ := wfVex_iff.1 h
  rw [decode_vexBytes pp l opc rest hps hf hv, decodeVex_of_wf hps hf hv hopc, decodeVexRM_rmBytes rest hrm hi]

/-! ### Every instruction read back (R110, R111) -/

/-- A row of both r/m kinds makes its instruction, whatever REX.W and the kind. -/
theorem legacyInstr_of_row {pp : SimdPrefix} {map : OpMap} {opc : Byte} {e : Legacy RM} {i : Instr}
    (h : ∀ w rf, (legacyRow pp map opc w rf).bind (·.make e) = some i) : legacyInstr pp map opc e = some i :=
  h (rexW e.rex) e.rm.isReg

/-- A register-only row makes its instruction, whatever REX.W. -/
theorem legacyInstr_of_regRow {pp : SimdPrefix} {map : OpMap} {opc : Byte} {e : Legacy RegField} {i : Instr}
    (h : ∀ w, (legacyRow pp map opc w true).bind (·.make (e.map RM.reg)) = some i) :
    legacyInstr pp map opc (e.map RM.reg) = some i :=
  h (rexW e.rex)

/-- A memory-only row makes its instruction, whatever REX.W. -/
theorem legacyInstr_of_memRow {pp : SimdPrefix} {map : OpMap} {opc : Byte} {e : Legacy MemOp} {i : Instr}
    (h : ∀ w, (legacyRow pp map opc w false).bind (·.make (e.map RM.mem)) = some i) :
    legacyInstr pp map opc (e.map RM.mem) = some i :=
  h (rexW e.rex)

/-- A VEX row of both r/m kinds makes its instruction, whatever the kind. -/
theorem vexInstr_of_row {pp : SimdPrefix} {map : OpMap} {l : Bool} {v : RegNum} {opc : Byte} {e : Vex RM} {i : Instr}
    (h : ∀ rf, (vexRow pp.code map.code l rf opc).bind (·.instr v e) = some i) : vexInstr pp map l v opc e = some i :=
  h e.rm.isReg

/-- A register-only VEX row makes its instruction. -/
theorem vexInstr_of_regRow {pp : SimdPrefix} {map : OpMap} {l : Bool} {v : RegNum} {opc : Byte} {e : Vex RegField}
    {i : Instr} (h : (vexRow pp.code map.code l true opc).bind (·.instr v (e.map RM.reg)) = some i) :
    vexInstr pp map l v opc (e.map RM.reg) = some i :=
  h

/-- A memory-only VEX row makes its instruction. -/
theorem vexInstr_of_memRow {pp : SimdPrefix} {map : OpMap} {l : Bool} {v : RegNum} {opc : Byte} {e : Vex MemOp}
    {i : Instr} (h : (vexRow pp.code map.code l false opc).bind (·.instr v (e.map RM.mem)) = some i) :
    vexInstr pp map l v opc (e.map RM.mem) = some i :=
  h

/-- The row that REX.W selects makes MOVNTI (R111). -/
theorem legacyInstr_movnti (e : Legacy MemOp) :
    legacyInstr .none .m0F 0xC3 (e.map RM.mem) = some (if rexW e.rex then .movnti64 e else .movnti32 e) := by
  have h : ∀ w, (legacyRow .none .m0F 0xC3 w false).bind (·.make (e.map RM.mem)) =
      some (if w then .movnti64 e else .movnti32 e) := Bool.forall_bool.2 ⟨rfl, rfl⟩
  exact h (rexW e.rex)

/-- The decoder reads back the encoding of a well-formed instruction, whatever bytes follow it. -/
theorem decode_encode {m : Mode} {i : Instr} (rest : List Byte) (h : i.wf m = true) :
    decode m (encode i ++ rest) = .instr i := by
  cases i with
  | movddup e => exact decode_legacy h (by decide) (legacyInstr_of_row (by rintro (_ | _) (_ | _) <;> rfl))
  | vmovddupX e => exact decode_vex h (by decide) (vexInstr_of_row (Bool.forall_bool.2 ⟨rfl, rfl⟩))
  | vmovddupY e => exact decode_vex h (by decide) (vexInstr_of_row (Bool.forall_bool.2 ⟨rfl, rfl⟩))
  | movdqaLoad e => exact decode_legacy h (by decide) (legacyInstr_of_row (by rintro (_ | _) (_ | _) <;> rfl))
  | movdqaStore e => exact decode_legacy h (by decide) (legacyInstr_of_row (by rintro (_ | _) (_ | _) <;> rfl))
  | vmovdqaXLoad e => exact decode_vex h (by decide) (vexInstr_of_row (Bool.forall_bool.2 ⟨rfl, rfl⟩))
  | vmovdqaXStore e => exact decode_vex h (by decide) (vexInstr_of_row (Bool.forall_bool.2 ⟨rfl, rfl⟩))
  | vmovdqaYLoad e => exact decode_vex h (by decide) (vexInstr_of_row (Bool.forall_bool.2 ⟨rfl, rfl⟩))
  | vmovdqaYStore e => exact decode_vex h (by decide) (vexInstr_of_row (Bool.forall_bool.2 ⟨rfl, rfl⟩))
  | movdquLoad e => exact decode_legacy h (by decide) (legacyInstr_of_row (by rintro (_ | _) (_ | _) <;> rfl))
  | movdquStore e => exact decode_legacy h (by decide) (legacyInstr_of_row (by rintro (_ | _) (_ | _) <;> rfl))
  | vmovdquXLoad e => exact decode_vex h (by decide) (vexInstr_of_row (Bool.forall_bool.2 ⟨rfl, rfl⟩))
  | vmovdquXStore e => exact decode_vex h (by decide) (vexInstr_of_row (Bool.forall_bool.2 ⟨rfl, rfl⟩))
  | vmovdquYLoad e => exact decode_vex h (by decide) (vexInstr_of_row (Bool.forall_bool.2 ⟨rfl, rfl⟩))
  | vmovdquYStore e => exact decode_vex h (by decide) (vexInstr_of_row (Bool.forall_bool.2 ⟨rfl, rfl⟩))
  | movdq2q e => exact decode_legacy h (by decide) (legacyInstr_of_regRow (Bool.forall_bool.2 ⟨rfl, rfl⟩))
  | movhlps e => exact decode_legacy h (by decide) (legacyInstr_of_regRow (Bool.forall_bool.2 ⟨rfl, rfl⟩))
  | vmovhlps v e => exact decode_vex h (by decide) (vexInstr_of_regRow rfl)
  | movhpdLoad e => exact decode_legacy h (by decide) (legacyInstr_of_memRow (Bool.forall_bool.2 ⟨rfl, rfl⟩))
  | movhpdStore e => exact decode_legacy h (by decide) (legacyInstr_of_memRow (Bool.forall_bool.2 ⟨rfl, rfl⟩))
  | vmovhpdLoad v e => exact decode_vex h (by decide) (vexInstr_of_memRow rfl)
  | vmovhpdStore e => exact decode_vex h (by decide) (vexInstr_of_memRow rfl)
  | movhpsLoad e => exact decode_legacy h (by decide) (legacyInstr_of_memRow (Bool.forall_bool.2 ⟨rfl, rfl⟩))
  | movhpsStore e => exact decode_legacy h (by decide) (legacyInstr_of_memRow (Bool.forall_bool.2 ⟨rfl, rfl⟩))
  | vmovhpsLoad v e => exact decode_vex h (by decide) (vexInstr_of_memRow rfl)
  | vmovhpsStore e => exact decode_vex h (by decide) (vexInstr_of_memRow rfl)
  | movlhps e => exact decode_legacy h (by decide) (legacyInstr_of_regRow (Bool.forall_bool.2 ⟨rfl, rfl⟩))
  | vmovlhps v e => exact decode_vex h (by decide) (vexInstr_of_regRow rfl)
  | movlpdLoad e => exact decode_legacy h (by decide) (legacyInstr_of_memRow (Bool.forall_bool.2 ⟨rfl, rfl⟩))
  | movlpdStore e => exact decode_legacy h (by decide) (legacyInstr_of_memRow (Bool.forall_bool.2 ⟨rfl, rfl⟩))
  | vmovlpdLoad v e => exact decode_vex h (by decide) (vexInstr_of_memRow rfl)
  | vmovlpdStore e => exact decode_vex h (by decide) (vexInstr_of_memRow rfl)
  | movlpsLoad e => exact decode_legacy h (by decide) (legacyInstr_of_memRow (Bool.forall_bool.2 ⟨rfl, rfl⟩))
  | movlpsStore e => exact decode_legacy h (by decide) (legacyInstr_of_memRow (Bool.forall_bool.2 ⟨rfl, rfl⟩))
  | vmovlpsLoad v e => exact decode_vex h (by decide) (vexInstr_of_memRow rfl)
  | vmovlpsStore e => exact decode_vex h (by decide) (vexInstr_of_memRow rfl)
  | movmskpd e => exact decode_legacy h (by decide) (legacyInstr_of_regRow (Bool.forall_bool.2 ⟨rfl, rfl⟩))
  | vmovmskpdX e => exact decode_vex h (by decide) (vexInstr_of_regRow rfl)
  | vmovmskpdY e => exact decode_vex h (by decide) (vexInstr_of_regRow rfl)
  | movmskps e => exact decode_legacy h (by decide) (legacyInstr_of_regRow (Bool.forall_bool.2 ⟨rfl, rfl⟩))
  | vmovmskpsX e => exact decode_vex h (by decide) (vexInstr_of_regRow rfl)
  | vmovmskpsY e => exact decode_vex h (by decide) (vexInstr_of_regRow rfl)
  | movntdqa e => exact decode_legacy h (by decide) (legacyInstr_of_memRow (Bool.forall_bool.2 ⟨rfl, rfl⟩))
  | vmovntdqaX e => exact decode_vex h (by decide) (vexInstr_of_memRow rfl)
  | vmovntdqaY e => exact decode_vex h (by decide) (vexInstr_of_memRow rfl)
  | movntdq e => exact decode_legacy h (by decide) (legacyInstr_of_memRow (Bool.forall_bool.2 ⟨rfl, rfl⟩))
  | vmovntdqX e => exact decode_vex h (by decide) (vexInstr_of_memRow rfl)
  | vmovntdqY e => exact decode_vex h (by decide) (vexInstr_of_memRow rfl)
  | movnti32 e =>
    obtain ⟨h, hw⟩ : wfLegacy m .none (e.map RM.mem) = true ∧ rexW e.rex = false := by simpa [Instr.wf] using h
    exact decode_legacy h (by decide) (by rw [legacyInstr_movnti, hw]; rfl)
  | movnti64 e =>
    obtain ⟨h, hw⟩ : wfLegacy m .none (e.map RM.mem) = true ∧ rexW e.rex = true := by simpa [Instr.wf] using h
    exact decode_legacy h (by decide) (by rw [legacyInstr_movnti, hw]; rfl)
  | movntpd e => exact decode_legacy h (by decide) (legacyInstr_of_memRow (Bool.forall_bool.2 ⟨rfl, rfl⟩))
  | vmovntpdX e => exact decode_vex h (by decide) (vexInstr_of_memRow rfl)
  | vmovntpdY e => exact decode_vex h (by decide) (vexInstr_of_memRow rfl)
  | movntps e => exact decode_legacy h (by decide) (legacyInstr_of_memRow (Bool.forall_bool.2 ⟨rfl, rfl⟩))
  | vmovntpsX e => exact decode_vex h (by decide) (vexInstr_of_memRow rfl)
  | vmovntpsY e => exact decode_vex h (by decide) (vexInstr_of_memRow rfl)
  | movntq e => exact decode_legacy h (by decide) (legacyInstr_of_memRow (Bool.forall_bool.2 ⟨rfl, rfl⟩))
  | movqMmLoad e => exact decode_legacy h (by decide) (legacyInstr_of_row (by rintro (_ | _) (_ | _) <;> rfl))
  | movqMmStore e => exact decode_legacy h (by decide) (legacyInstr_of_row (by rintro (_ | _) (_ | _) <;> rfl))
  | movqXmmLoad e => exact decode_legacy h (by decide) (legacyInstr_of_row (by rintro (_ | _) (_ | _) <;> rfl))
  | vmovqReg e => exact decode_vex h (by decide) (vexInstr_of_regRow rfl)
  | vmovqLoad e => exact decode_vex h (by decide) (vexInstr_of_memRow rfl)
  | movqXmmStore e => exact decode_legacy h (by decide) (legacyInstr_of_row (by rintro (_ | _) (_ | _) <;> rfl))
  | vmovqStore e => exact decode_vex h (by decide) (vexInstr_of_row (Bool.forall_bool.2 ⟨rfl, rfl⟩))

end Sys2Proof
end

section
/-! The step on the bytes of an encoding (R14, R110). -/

namespace Sys2Proof.Machine

/-- Settles O54, by the round trip `decode_encode`. -/
theorem stepRunsEncodedInstruction : Obligations.StepRunsEncodedInstruction := fun _ _ rest hr he hwf hbs =>
  step_of_decode hr he (hbs ▸ decode_encode rest hwf)

end Sys2Proof.Machine
end

section
/-! What a completed instruction has done to each part of the state (R22, R25, R43, R63, R75, R108), once for all 64
rows, and what every step keeps. -/

namespace Sys2Proof.Machine

/-! ### What execution leaves behind -/

/-- What memory can be once `i` has executed in `s`: as before or, where `i` writes its memory operand and the text
check let pass, with bytes stored at the operand's locations. -/
def MemoryAfter (i : Instr) (s : State) (m : Memory) : Prop :=
  m = s.mem ∨
    ∃ a locs bs, i.access = some a ∧ a.kind = .write ∧
      s.Located a.kind (byteAddrs s.cfg.mode (s.linear a.ref) a.size) locs ∧
        s.overlapsText (byteAddrs s.cfg.mode (s.linear a.ref) a.size) locs = false ∧ m = s.mem.writeAll locs bs

/-- The next state is that of the row's effect on the state with the operand stored, with RIP past the instruction. -/
theorem exec_next_frame {i : Instr} {s t : State} (h : exec i s = .next t) :
    ∃ f m k bs, EffectKeeps i f ∧ MemoryAfter i s m ∧
      t = { f { s with mem := m, draws := k } bs with rip := s.nextRip i.len } := by
  obtain ⟨f, b, keeps, -, ⟨-, ht⟩ | ⟨a, u, locs, ha, hm, hu, hkind⟩⟩ := exec_next_cases h
  · exact ⟨f, s.mem, s.draws, [], keeps, .inl rfl, ht⟩
  rcases hkind with ⟨-, ht⟩ | ⟨hk, ht⟩
  · exact ⟨f, s.mem, u.draws, _, keeps, .inl rfl, by rw [ht, hu]⟩
  · obtain ⟨-, -, -, hl, -, hw⟩ := memAccess_eq_ok.1 hm
    exact ⟨f, _, u.draws, [], keeps, .inr ⟨a, locs, b s, ha, hk, hl, hw hk, rfl⟩, by rw [ht, hu]⟩

section
variable {i : Instr} {s t : State}

/-- Every instruction that completes ends with RIP past it (R108). -/
theorem exec_rip (h : exec i s = .next t) : t.rip = s.nextRip i.len := by
  obtain ⟨f, m, k, bs, -, -, rfl⟩ := exec_next_frame h
  rfl

/-- No instruction changes the system state (R23, R30 to R38, R42). -/
theorem exec_sameSystem (h : exec i s = .next t) : SameSystem s t := by
  obtain ⟨f, m, k, bs, keeps, -, rfl⟩ := exec_next_frame h
  exact keeps.system _ bs

theorem exec_memoryAfter (h : exec i s = .next t) : MemoryAfter i s t.mem := by
  obtain ⟨f, m, k, bs, keeps, hm, rfl⟩ := exec_next_frame h
  exact (keeps.mem _ bs).symm ▸ hm

/-- A vector register that is not the destination keeps its value (R43). -/
theorem exec_ymmAt (h : exec i s = .next t) (n : RegNum) (hn : i.dest ≠ .vector n) : t.ymmAt n = s.ymmAt n := by
  obtain ⟨f, m, k, bs, keeps, -, rfl⟩ := exec_next_frame h
  exact keeps.vector n hn _ bs

/-- A general-purpose register that is not the destination keeps its value (R43). -/
theorem exec_gprAt (h : exec i s = .next t) (n : RegNum) (hn : i.dest ≠ .gpr n) : t.gprAt n = s.gprAt n := by
  obtain ⟨f, m, k, bs, keeps, -, rfl⟩ := exec_next_frame h
  exact keeps.general n hn _ bs

/-- An x87 data register that is not the destination keeps its value (R43). -/
theorem exec_x87 (h : exec i s = .next t) (n : MmxNum) (hn : i.dest ≠ .mmx n) :
    t.x87.get n.toFin = s.x87.get n.toFin := by
  obtain ⟨f, m, k, bs, keeps, -, rfl⟩ := exec_next_frame h
  exact keeps.mmx n hn _ bs

/-- Only the rows with an MMX operand change TOP and FTW (R29). -/
theorem exec_tags (h : exec i s = .next t) (hg : ∀ f, i.gate ≠ .mmx f) (hg' : i.gate ≠ .movdq2q) :
    t.top = s.top ∧ t.ftw = s.ftw := by
  obtain ⟨f, m, k, bs, keeps, -, rfl⟩ := exec_next_frame h
  exact keeps.tags hg hg' _ bs

/-- Only a memory destination changes memory (R43). -/
theorem MemoryAfter.eq_of_dest {m : Memory} (h : MemoryAfter i s m) (hd : i.dest ≠ .memory) : m = s.mem := by
  rcases h with h | ⟨a, _, _, ha, hk, -⟩
  · exact h
  · exact absurd ((dest_eq_memory i).2 ⟨a, ha, hk⟩) hd

/-- The bytes of an access have one list of locations. -/
theorem State.Located.unique {kind : AccessKind} {as : List QWord} {locs locs' : List Nat}
    (h : s.Located kind as locs) (h' : s.Located kind as locs') : locs = locs' :=
  Check.ok.inj ((State.translate_eq_ok.2 h).symm.trans (State.translate_eq_ok.2 h'))

/-- Memory away from the operand's locations reads as before (R43, R63). -/
theorem MemoryAfter.read_of_not_mem {m : Memory} {a : MemAccess} {locs : List Nat} (h : MemoryAfter i s m)
    (ha : i.access = some a) (hl : s.Located a.kind (byteAddrs s.cfg.mode (s.linear a.ref) a.size) locs)
    {loc : Nat} (hloc : loc ∉ locs) : m.read loc = s.mem.read loc := by
  rcases h with rfl | ⟨a', locs', bs, ha', -, hl', -, rfl⟩
  · rfl
  · obtain rfl : a' = a := Option.some.inj (ha'.symm.trans ha)
    exact Memory.read_writeAll_of_not_mem _ bs (hl'.unique hl ▸ hloc)

/-- A store keeps memory in its canonical form (R50). -/
theorem MemoryAfter.wf {m : Memory} (h : MemoryAfter i s m) (hs : s.mem.wf) : m.wf := by
  rcases h with rfl | ⟨_, locs, bs, -, -, hl, -, rfl⟩
  · exact hs
  · exact Memory.wf_writeAll locs bs hs hl.lt

end

/-! ### The advance of RIP (R22, R108) -/

theorem State.nextRip_mode64 {s : State} (h : s.cfg.mode = .mode64) (len : Nat) :
    s.nextRip len = s.rip + BitVec.ofNat 64 len := by
  rw [State.nextRip, h, addrAdd]

theorem State.toNat_nextRip_mode32 {s : State} (h : s.cfg.mode = .mode32) (len : Nat) :
    (s.nextRip len).toNat = (s.rip.toNat + len) % 2 ^ 32 := by
  rw [State.nextRip, h, addrAdd]
  simp
  omega

/-- Settles O51. -/
theorem completionAdvancesRip : Obligations.CompletionAdvancesRip := by
  intro i s t h
  rw [exec_rip h, length_encode]
  exact ⟨fun hm => State.nextRip_mode64 hm _, fun hm => State.toNat_nextRip_mode32 hm _⟩

/-! ### What every step keeps -/

/-- Settles O50: the end of a run changes nothing, and execution keeps the system state. -/
theorem noStepChangesSystemState : Obligations.NoStepChangesSystemState := by
  intro s t h
  obtain ⟨-, ⟨-, rfl⟩ | ⟨-, i, -, hx⟩⟩ := step_eq_next.1 h
  · exact SameSystem.rfl
  · exact exec_sameSystem hx

/-- Executing an instruction keeps the invariant. -/
theorem exec_inv {i : Instr} {s t : State} (h : exec i s = .next t) (hs : s.Inv) : t.Inv := by
  obtain ⟨hwf, -⟩ := hs
  refine ⟨(exec_memoryAfter h).wf hwf, fun hm => ?_⟩
  obtain ⟨-, -, -, -, -, -, -, -, hcfg⟩ := exec_sameSystem h
  rw [exec_rip h, State.toNat_nextRip_mode32 (hcfg ▸ hm)]
  exact Nat.mod_lt _ (by norm_num)

/-- Settles O47. -/
theorem everyStepKeepsInvariant : Obligations.EveryStepKeepsInvariant := by
  intro s t hs h
  obtain ⟨-, ⟨-, rfl⟩ | ⟨-, i, -, hx⟩⟩ := step_eq_next.1 h
  · exact hs
  · exact exec_inv hx hs

/-! ### The program text (R75) -/

/-- Where an address is fetched from: the location a rule of the oracle takes it to, or its own number (R61, D19). -/
theorem State.fetchLoc_cases (s : State) (a : QWord) :
    s.fetchLoc a = a.toNat ∨
      ∃ rule ∈ s.cfg.access, ∃ phys,
        rule.answer = .ok phys ∧ s.fetchLoc a = (phys + (a - rule.base)).toNat := by
  unfold State.fetchLoc State.accessByte
  cases hf : s.cfg.access.find? fun rule => AccessRule.covers rule .read s.cpl a with
  | none => exact .inl rfl
  | some rule =>
    cases hr : rule.answer with
    | ok phys => exact .inr ⟨rule, List.mem_of_find?_eq_some hf, phys, hr, by simp only [hr]⟩
    | _ => exact .inl (by simp only [hr])

/-- The location that an address of the text is fetched from is one that the text check of a store finds: going back
from it, by identity or by the rule that led there, gives the address again (R75). -/
theorem State.isTextLoc_fetchLoc {s : State} {a : QWord} (ha : s.inText a = true) :
    s.isTextLoc (s.fetchLoc a) = true := by
  refine List.any_eq_true.2 ⟨a, ?_, by simp [ha]⟩
  rw [List.mem_cons, List.mem_filterMap]
  rcases s.fetchLoc_cases a with h | ⟨rule, hmem, phys, hok, h⟩
  · exact .inl (by rw [h, BitVec.ofNat_toNat, BitVec.setWidth_eq])
  · refine .inr ⟨rule, hmem, ?_⟩
    rw [hok, h, BitVec.ofNat_toNat, BitVec.setWidth_eq]
    exact congrArg some (by abel)

/-- A store that passed the text check leaves every byte of the program text (R75). -/
theorem MemoryAfter.read_text {i : Instr} {s : State} {m : Memory} (h : MemoryAfter i s m) {a : QWord}
    (ha : s.inText a = true) : m.read (s.fetchLoc a) = s.mem.read (s.fetchLoc a) := by
  rcases h with rfl | ⟨_, locs, bs, -, -, -, hno, rfl⟩
  · rfl
  · refine Memory.read_writeAll_of_not_mem _ bs fun hmem => ?_
    obtain ⟨-, hlocs⟩ := Bool.or_eq_false_iff.1 hno
    exact List.any_eq_false.1 hlocs _ hmem (State.isTextLoc_fetchLoc ha)

/-- Which addresses are program text is a matter of the system state. -/
theorem SameSystem.inText {s t : State} (h : SameSystem s t) (a : QWord) : t.inText a = s.inText a := by
  obtain ⟨-, -, -, -, -, -, -, hprog, -⟩ := h
  rw [State.inText, hprog, State.inText]

/-- Where an address is fetched from is a matter of the system state. -/
theorem SameSystem.fetchLoc {s t : State} (h : SameSystem s t) (a : QWord) : t.fetchLoc a = s.fetchLoc a := by
  obtain ⟨-, -, -, -, hcpl, -, -, -, hcfg⟩ := h
  rw [State.fetchLoc, State.accessByte, hcpl, hcfg, State.fetchLoc, State.accessByte]

/-- Settles O49: an executed instruction leaves the bytes of the text, and where they are fetched from. -/
theorem everyStepKeepsProgramText : Obligations.EveryStepKeepsProgramText := by
  intro s t text htext h
  obtain ⟨-, ⟨-, rfl⟩ | ⟨-, i, -, hx⟩⟩ := step_eq_next.1 h
  · exact ⟨htext, fun _ => rfl⟩
  · have hsys := exec_sameSystem hx
    refine ⟨fun a ha => ?_, hsys.inText⟩
    rw [hsys.inText] at ha
    rw [hsys.fetchLoc, (exec_memoryAfter hx).read_text ha, htext a ha]

/-! ### The table of state touched (R43) -/

/-- MMX numbers take no extension bit (R107). -/
theorem setWidth_extend (b : Bool) (n : BitVec 3) : (extend b n).setWidth 3 = n := by
  revert b n
  decide

/-- Settles O52: each item of the table is a frame of execution. -/
theorem eachRowTouchesOnlyItsState : Obligations.EachRowTouchesOnlyItsState := by
  refine ⟨fun i s t h => ?_, dest_eq_memory, fun e f => ?_⟩
  · exact ⟨exec_sameSystem h, exec_ymmAt h, exec_gprAt h, exec_x87 h, exec_tags h, (exec_memoryAfter h).eq_of_dest,
      fun _ ha _ hl _ hloc => (exec_memoryAfter h).read_of_not_mem ha hl hloc⟩
  · exact ⟨rfl, rfl, rfl, congrArg Dest.mmx (setWidth_extend _ _), rfl, rfl, rfl, rfl, rfl⟩

end Sys2Proof.Machine
end

section
/-! The state after power-up and the launch state (10_state.md R44; 70_reset_and_hazards.md R300, R301; R34). -/

namespace Sys2Proof.Machine

/-- Settles O48: neither lists any memory, and RIP is FFF0H in both. -/
theorem resetHasInvariant : Obligations.ResetHasInvariant :=
  ⟨⟨Memory.wf_nil, fun _ => by decide⟩, ⟨Memory.wf_nil, fun _ => by decide⟩⟩

theorem vector_get_replicate {α : Type} {k : Nat} (x : α) (j : Fin k) : (Vector.replicate k x).get j = x :=
  Vector.getElem_replicate j.isLt

/-- The registers after power-up: 0, but EDX, which holds the processor signature (R44). -/
theorem powerUp_gprAt (n : RegNum) :
    State.powerUp.gprAt n = if 2 = n then Config.processorSignature.setWidth 64 else 0 :=
  (vector_get_set_bitvec (k := 4) _ 2 n _).trans (if_congr Iff.rfl rfl (vector_get_replicate _ _))

/-- The launch state has the registers of R44 with EDX 0 (R300). -/
theorem reset_gpr : State.powerUp.gpr.set 2 0 = State.reset.gpr := by
  simp [State.powerUp, State.reset, Vector.set_set]

/-- The launch state is R44's with EDX 0 and the bits of the ENABLE premise set (R34, R300). -/
theorem reset_eq_powerUp : State.reset =
    { State.powerUp with
      gpr := State.powerUp.gpr.set 2 0
      cr0 := State.powerUp.cr0 ||| 1
      cr4 := 1 <<< 9 ||| 1 <<< 18
      xcr0 := State.powerUp.xcr0 ||| 6
      cfg := Config.launch } := by
  rw [reset_gpr]
  rfl

/-- Settles O58. -/
theorem powerUpAndLaunchValues : Obligations.PowerUpAndLaunchValues :=
  ⟨fun n => vector_get_replicate _ n.toFin, fun n => vector_get_replicate _ n.toFin, rfl, rfl, rfl,
    fun n hn => by rw [powerUp_gprAt, if_neg (Ne.symm hn)], by rw [powerUp_gprAt, if_pos rfl],
    rfl, rfl, rfl, rfl, rfl, rfl, rfl, reset_eq_powerUp, rfl, rfl, rfl⟩

/-- The launch state meets the ENABLE premise (R34). -/
theorem reset_enabled : State.reset.Enabled :=
  ⟨by decide, by decide, by decide, by decide, fun _ => ⟨by decide, by decide⟩⟩

/-- Settles O57: under the premise each check procedure has what it asks for (R270 to R274). -/
theorem launchPremise : Obligations.LaunchPremise := by
  refine ⟨reset_enabled, fun s f ⟨_, hem, hts, hfx, havx⟩ hf => ?_⟩
  refine ⟨?_, fun h => ?_, fun h => ?_, fun h => ?_, fun h hp => ?_⟩
  · exact Gate.check_of_ready (g := .sse f) ⟨hem, hfx, hf, hts⟩
  · obtain ⟨hxsave, hstate⟩ := havx h
    exact Gate.check_of_ready (g := .vex f) ⟨hxsave, hstate, hf, hts⟩
  · exact Gate.check_of_ready (g := .mmx f) ⟨hem, hf, hts, h⟩
  · exact Gate.check_of_ready (g := .movnti) h
  · exact Gate.check_of_ready (g := .movdq2q) ⟨hem, hfx, h, hts, hp⟩

end Sys2Proof.Machine
end

section
/-! What a memory access reads of the state: changes of the state that its checks do not see (R58, R61, R70, R285). -/

namespace Sys2Proof.Machine

/-- The change `g` of `s` is one that the checks of an access do not see: of the vector registers, CPL and the memory
types, with the same answers of the oracle and the same AlignCheck (R58). -/
structure KeepsAccess (g : State → State) (s : State) : Prop where
  only : ∃ y c m, ∀ k, g { s with draws := k } =
    { s with draws := k, ymm := y, cpl := c, cfg := { s.cfg with memTypes := m } }
  oracle : ∀ kind a, (g s).accessByte kind a = s.accessByte kind a
  alignCheck : (g s).alignCheck = s.alignCheck

section
variable {g : State → State} {s : State}

/-- Such a change leaves every other field, and it commutes with a draw. -/
theorem KeepsAccess.eq (h : KeepsAccess g s) :
    ∃ y c m, g s = { s with ymm := y, cpl := c, cfg := { s.cfg with memTypes := m } } ∧
      ∀ k, g { s with draws := k } = { g s with draws := k } := by
  obtain ⟨y, c, m, hg⟩ := h.only
  exact ⟨y, c, m, hg s.draws, fun k => (hg k).trans (by rw [show g s = _ from hg s.draws])⟩

/-- The translation of an access goes by the answers of the oracle alone (R61). -/
theorem State.translate_congr {s' : State} {kind : AccessKind} (h : ∀ a, s'.accessByte kind a = s.accessByte kind a)
    (as : List QWord) : s'.translate kind as = s.translate kind as := by
  induction as with
  | nil => rfl
  | cons a rest ih => rw [State.translate, h, ih, State.translate]

theorem KeepsAccess.fetchLoc (h : KeepsAccess g s) : (g s).fetchLoc = s.fetchLoc := by
  funext a
  rw [State.fetchLoc, h.oracle, State.fetchLoc]

theorem KeepsAccess.inText (h : KeepsAccess g s) : (g s).inText = s.inText := by
  obtain ⟨y, c, m, hg, -⟩ := h.eq
  rw [hg]
  rfl

theorem KeepsAccess.isTextLoc (h : KeepsAccess g s) : (g s).isTextLoc = s.isTextLoc := by
  obtain ⟨y, c, m, hg, -⟩ := h.eq
  funext loc
  rw [State.isTextLoc, h.inText, h.fetchLoc, hg]
  rfl

/-- The text check of an access is the same (R75). -/
theorem KeepsAccess.textCheck (h : KeepsAccess g s) (kind : AccessKind) (as : List QWord) (locs : List Nat) :
    (g s).textCheck kind as locs = s.textCheck kind as locs := by
  cases kind with
  | read => rfl
  | write => rw [State.textCheck, State.overlapsText, h.inText, h.isTextLoc, State.textCheck, State.overlapsText]

/-- Alignment checking answers the changed state (R56). -/
theorem KeepsAccess.alignChecked (h : KeepsAccess g s) (al : AlignRule) (la : QWord) :
    alignChecked al la (g s) = (alignChecked al la s).bind fun t => .ok (g t) := by
  obtain ⟨y, c, m, hg, hdraw⟩ := h.eq
  have hdraws : (g s).draws = s.draws := by rw [hg]
  cases al with
  | required n => rfl
  | definite n =>
    rw [Machine.alignChecked, h.alignCheck, Machine.alignChecked]
    split <;> rfl
  | draw n =>
    rw [Machine.alignChecked, h.alignCheck, hdraws, ← hdraw, Machine.alignChecked]
    split
    · split <;> rfl
    · rfl

/-- An access does the same in the changed state. -/
theorem KeepsAccess.memAccess (h : KeepsAccess g s) (kind : AccessKind) (al : AlignRule) (n : Nat) (r : MemRef) :
    memAccess kind al n r (g s) = (memAccess kind al n r s).bind fun p => .ok (g p.1, p.2) := by
  have hview : (g s).passesSegmentEnd r n = s.passesSegmentEnd r n ∧
      (g s).addressForm kind r n = s.addressForm kind r n ∧ (g s).addressExn kind r = s.addressExn kind r ∧
        (g s).linear r = s.linear r ∧ (g s).cfg.mode = s.cfg.mode := by
    obtain ⟨y, c, m, hg, -⟩ := h.eq
    rw [hg]
    exact ⟨rfl, rfl, rfl, rfl, rfl⟩
  obtain ⟨hseg, hform, hexn, hlin, hmode⟩ := hview
  rw [Machine.memAccess, hseg, hform, hexn, hlin, hmode, State.translate_congr (h.oracle kind), h.alignChecked,
    Machine.memAccess]
  split
  · rfl
  · simp only [Check.bind_assoc, Check.bind_ok_left, h.textCheck]

end

/-! ### CPL and the memory types (R70, R285) -/

/-- The state with another CPL and other memory types. -/
def State.relabel (c : Fin 4) (m : List MemTypeRegion) (s : State) : State :=
  { s with cpl := c, cfg := { s.cfg with memTypes := m } }

section
variable {c : Fin 4} {m : List MemTypeRegion} {s : State} {i : Instr}

/-- No effect of an instruction reads CPL or a memory type. -/
theorem EffectKeeps.relabel {f : State → List Byte → State} (keeps : EffectKeeps i f) (s : State) (bs : List Byte) :
    f (s.relabel c m) bs = (f s bs).relabel c m := by
  obtain ⟨hflags, -⟩ := keeps.system s bs
  refine (keeps.context ⟨s.rflags, s.draws, c, m⟩ s bs).trans ?_
  rw [State.inContext, ← hflags, ← keeps.draws s bs]
  rfl

/-- No check procedure reads CPL or a memory type (R270 to R274). -/
theorem Gate.check_relabel (g : Gate) : g.check (s.relabel c m) = g.check s := by
  cases g <;> rfl

/-- Completion of an instruction that did the same in the relabelled state. -/
theorem complete_relabel (len : Nat) (k : Check State) :
    complete len (s.relabel c m) (k.bind fun t => .ok (t.relabel c m)) =
      mapNext (State.relabel c m) (complete len s k) := by
  cases k <;> rfl

/-- What follows the check procedure does the same in the relabelled state. -/
theorem afterGate_relabel (h : KeepsAccess (State.relabel c m) s) {f : State → List Byte → State}
    {b : State → List Byte} (keeps : EffectKeeps i f) (hb : ∀ (c : Context) s, b (s.inContext c) = b s) :
    afterGate i f b (s.relabel c m) = (afterGate i f b s).bind fun t => .ok (t.relabel c m) := by
  have hbs : b (s.relabel c m) = b s := hb ⟨s.rflags, s.draws, c, m⟩ s
  unfold afterGate
  cases i.access with
  | none => exact congrArg Check.ok (keeps.relabel s [])
  | some a =>
    simp only [h.memAccess, Check.bind_assoc, Check.bind_ok_left]
    congr 1
    funext t
    cases a.kind with
    | read => exact congrArg Check.ok (keeps.relabel t.1 _)
    | write =>
      rw [hbs]
      exact congrArg Check.ok (keeps.relabel { t.1 with mem := _ } _)

/-- An instruction whose access does not see CPL or the memory types executes alike under others. -/
theorem exec_relabel (i : Instr) (h : KeepsAccess (State.relabel c m) s) :
    exec i (s.relabel c m) = mapNext (State.relabel c m) (exec i s) := by
  obtain ⟨f, b, keeps, hb, hx⟩ := exec_effect i
  rw [hx, hx, Gate.check_relabel, afterGate_relabel h keeps hb, ← complete_relabel, Check.bind_assoc]

/-- Other memory types alone are not seen: the oracle and AlignCheck do not read them (R70). -/
theorem keepsAccess_memTypes (s : State) (m : List MemTypeRegion) : KeepsAccess (State.relabel s.cpl m) s :=
  ⟨⟨_, _, _, fun _ => rfl⟩, fun _ _ => rfl, rfl⟩

/-- An oracle whose rules are for every CPL answers alike at each (R285). -/
theorem accessByte_relabel_cpl (h : ∀ rule ∈ s.cfg.access, rule.cpl = none) (kind : AccessKind) (a : QWord) :
    (s.relabel c m).accessByte kind a = s.accessByte kind a := by
  have hfind : s.cfg.access.find? (fun rule => AccessRule.covers rule kind c a) =
      s.cfg.access.find? (fun rule => AccessRule.covers rule kind s.cpl a) :=
    List.find?_congr fun rule hrule => by simp [AccessRule.covers, h rule hrule]
  rw [State.accessByte, State.accessByte, ← hfind]
  rfl

/-- Another CPL is not seen where CR0.AM or RFLAGS.AC is 0 and the oracle does not look at it (R56, R285). -/
theorem keepsAccess_cpl (c : Fin 4) (hac : (s.am && s.ac) = false) (h : ∀ rule ∈ s.cfg.access, rule.cpl = none) :
    KeepsAccess (State.relabel c s.cfg.memTypes) s := by
  refine ⟨⟨_, _, _, fun _ => rfl⟩, accessByte_relabel_cpl h, ?_⟩
  show (s.am && s.ac && decide (c = 3)) = (s.am && s.ac && decide (s.cpl = 3))
  rw [hac, Bool.false_and, Bool.false_and]

end

/-- Two changes that agree on the next state of an outcome make the same of it. -/
theorem mapNext_congr {f g : State → State} {o : Host.Outcome State Fault Refusal}
    (h : ∀ t, o = .next t → f t = g t) : mapNext f o = mapNext g o := by
  cases o with
  | next t => exact congrArg Host.Outcome.next (h t rfl)
  | _ => rfl

/-- Settles O56: the next state has the CPL and the memory types of the state executed in, so that relabelling it
changes one of the two only. -/
theorem privilegeAndMemoryTypeDoNotMatter : Obligations.PrivilegeAndMemoryTypeDoNotMatter := by
  refine ⟨fun i s m => ?_, fun i s c hac horacle => ?_⟩
  · refine (exec_relabel i (keepsAccess_memTypes s m)).trans (mapNext_congr fun t h => ?_)
    obtain ⟨-, -, -, -, hcpl, -⟩ := exec_sameSystem h
    rw [State.relabel, ← hcpl]
  · refine (exec_relabel i (keepsAccess_cpl c hac horacle)).trans (mapNext_congr fun t h => ?_)
    obtain ⟨-, -, -, -, -, -, -, -, hcfg⟩ := exec_sameSystem h
    rw [State.relabel, ← hcfg]

end Sys2Proof.Machine
end

section
/-! The rows with a vector register as destination, by the three ways in which they treat the bits above their result
(10_state.md R25 (a) to (c)), and the half moves (43_movh_movl.md). -/

namespace Sys2Proof.Machine

/-! ### A register destination: what is loaded, then a function of it -/

/-- The access of `i`, where it loads: the state after its checks and the bytes read; no bytes where `i` has no memory
operand. -/
def loaded (i : Instr) (s : State) : Check (State × List Byte) :=
  match i.access with
  | none => .ok (s, [])
  | some a => (memAccess a.kind a.align a.size a.ref s).bind fun t => .ok (t.1, t.1.mem.readAll t.2)

/-- `i` executes as its check procedure, its load, and the effect `f` on the registers. -/
def Puts (i : Instr) (f : State → List Byte → State) : Prop :=
  ∀ s, exec i s = complete i.len s ((i.gate.check s).bind fun _ => (loaded i s).bind fun p => .ok (f p.1 p.2))

/-- The value of an r/m source operand: a register read by `rd`, or the bytes loaded. -/
def sourceValue {w : Nat} (o : Operand) (rd : State → RegNum → BitVec w) (s : State) (bs : List Byte) : BitVec w :=
  match o with
  | .reg n => rd s n
  | .mem _ => leValue w bs

section
variable {i : Instr} {s t u : State} {w : Nat} {al : AlignRule} {o : Operand} {r : MemRef} {d : RegNum}
  {rd : State → RegNum → BitVec w} {wr : State → BitVec w → State} {src : State → BitVec w}
  {wrn : State → RegNum → BitVec w → State} {f : State → State} {bs : List Byte}

/-- A load changes the draw counter at most. -/
theorem loaded_state (h : loaded i s = .ok (u, bs)) : u = { s with draws := u.draws } := by
  unfold loaded at h
  cases ha : i.access with
  | none =>
    rw [ha] at h
    cases h
    rfl
  | some a =>
    rw [ha] at h
    obtain ⟨⟨v, locs⟩, hm, hv⟩ := Check.bind_eq_ok.1 h
    cases hv
    exact memAccess_state hm

/-- What a completed execution of such a row has done to the vector registers. -/
theorem Puts.next {f : State → List Byte → State} (hx : Puts i f) (h : exec i s = .next t) :
    i.gate.check s = .ok () ∧
      ∃ k bs, loaded i s = .ok ({ s with draws := k }, bs) ∧
        ∀ n, t.ymmAt n = (f { s with draws := k } bs).ymmAt n := by
  rw [hx, complete_eq_next] at h
  obtain ⟨v, hv, rfl⟩ := h
  obtain ⟨⟨⟩, hc, hv⟩ := Check.bind_eq_ok.1 hv
  obtain ⟨⟨u, bs⟩, hl, hv⟩ := Check.bind_eq_ok.1 hv
  cases hv
  have hu := loaded_state hl
  exact ⟨hc, u.draws, bs, hu ▸ hl, fun n => by rw [← hu]; rfl⟩

/-- A move within the registers. -/
theorem puts_regMove (m : State → Host.Outcome State Fault Refusal)
    (hm : ∀ s, m s = regMove i.gate.check i.len f s) (hx : exec i = m) (ha : i.access = none) :
    Puts i fun s _ => f s := by
  intro s
  rw [hx, hm, regMove, loaded, ha]
  rfl

/-- A load from memory. -/
theorem puts_load (m : State → Host.Outcome State Fault Refusal) (hm : ∀ s, m s = load i.gate.check al r wr s)
    (hx : exec i = m) (ha : i.access = some ⟨.read, w / 8, al, r⟩) (hr : r.len = i.len) :
    Puts i fun s bs => wr s (leValue w bs) := by
  intro s
  rw [hx, hm, load, loadMem, loaded, ha, hr]
  simp only [Check.bind_assoc, Check.bind_ok_left]

/-- A move from an r/m operand. -/
theorem puts_moveIn (m : State → Host.Outcome State Fault Refusal)
    (hm : ∀ s, m s = moveIn i.gate.check i.len al rd o wr s) (hx : exec i = m)
    (ha : i.access = o.access .read (w / 8) al) : Puts i fun s bs => wr s (sourceValue o rd s bs) := by
  intro s
  rw [hx, hm, moveIn, loaded, ha]
  cases o with
  | reg n => rfl
  | mem r => simp only [readOperand, loadMem, Operand.access, sourceValue, Check.bind_assoc, Check.bind_ok_left]

theorem Operand.destVector_eq_vector : o.destVector = .vector d ↔ o = .reg d := by
  cases o <;> simp [Operand.destVector]

theorem Operand.destMmx_ne_vector : o.destMmx ≠ .vector d := by
  cases o <;> simp [Operand.destMmx]

/-- A move to an r/m operand that is a register. -/
theorem puts_moveOut (m : State → Host.Outcome State Fault Refusal)
    (hm : ∀ s, m s = moveOut i.gate.check i.len al src o wrn id s) (hx : exec i = m)
    (ha : i.access = o.access .write (w / 8) al) (ho : o.destVector = .vector d) :
    Puts i fun s _ => wrn s d (src s) := by
  intro s
  obtain rfl := Operand.destVector_eq_vector.1 ho
  rw [hx, hm, moveOut, loaded, ha]
  rfl

/-! ### Reading past a write of a vector register -/

theorem State.xmmAt_setYmm_ne (s : State) {m n : RegNum} (v : YWord) (h : m ≠ n) :
    (s.setYmm n v).xmmAt m = s.xmmAt m := by
  rw [State.xmmAt, State.ymmAt_setYmm_ne s v h, State.xmmAt]

theorem State.lowAt_setYmm_ne (s : State) {m n : RegNum} (v : YWord) (h : m ≠ n) :
    (s.setYmm n v).lowAt m = s.lowAt m := by
  rw [State.lowAt, State.ymmAt_setYmm_ne s v h, State.lowAt]

theorem State.highAt_setYmm_ne (s : State) {m n : RegNum} (v : YWord) (h : m ≠ n) :
    (s.setYmm n v).highAt m = s.highAt m := by
  rw [State.highAt, State.ymmAt_setYmm_ne s v h, State.highAt]

/-- A source operand does not see a write of a register that is none of its own. -/
theorem sourceValue_setYmm (h : d ∉ o.vectorSources)
    (hrd : ∀ (s : State) {m n : RegNum} (v : YWord), m ≠ n → rd (s.setYmm n v) m = rd s m) (s : State) (v : YWord)
    (bs : List Byte) : sourceValue o rd (s.setYmm d v) bs = sourceValue o rd s bs := by
  cases o with
  | reg n => exact hrd s v fun hn => h (by rw [hn]; exact List.mem_singleton_self _)
  | mem r => rfl

/-- The high part of a concatenation. -/
theorem extract_high_append {m n : Nat} (x : BitVec m) (y : BitVec n) : (x ++ y).extractLsb' n m = x := by
  apply BitVec.eq_of_getLsbD_eq
  intro i hi
  simp [BitVec.getLsbD_append, hi]

/-- Of two writes of a vector register the second stays, also where only 128 bits are written (R24). -/
theorem State.ymmAt_setYmm_setYmm (s : State) (n : RegNum) (v x : YWord) :
    ((s.setYmm n v).setYmm n x).ymmAt n = (s.setYmm n x).ymmAt n := by
  rw [State.ymmAt_setYmm, if_pos rfl, State.ymmAt_setYmm s n n x, if_pos rfl, State.ymmAt_setYmm, if_pos rfl]
  by_cases h : s.vlmax = 256
  · rw [if_pos h, if_pos (show (s.setYmm n v).vlmax = 256 from h), if_pos h]
  · rw [if_neg h, if_neg (show ¬(s.setYmm n v).vlmax = 256 from h), if_neg h, extract_high_append]

/-- The write of a vector register is none that a load sees. -/
theorem keepsAccess_setYmm (s : State) (n : RegNum) (v : YWord) : KeepsAccess (fun t => t.setYmm n v) s :=
  ⟨⟨(s.setYmm n v).ymm, s.cpl, s.cfg.memTypes, fun _ => rfl⟩, fun _ _ => rfl, rfl⟩

theorem loaded_setYmm (i : Instr) (s : State) (n : RegNum) (v : YWord) :
    loaded i (s.setYmm n v) = (loaded i s).bind fun p => .ok (p.1.setYmm n v, p.2) := by
  unfold loaded
  cases i.access with
  | none => rfl
  | some a =>
    simp only [(keepsAccess_setYmm s n v).memAccess, Check.bind_assoc, Check.bind_ok_left]
    rfl

end

/-! ### The three kinds of rows (R25) -/

/-- How a row writes its destination, the vector register `d`, by an effect `f`; `lo`, `all` give the value, which in
the VEX rows the destination's old value is part of only where it is a source operand. -/
inductive VectorRow (i : Instr) (d : RegNum) : Prop where
  /-- R25 (a): a legacy row writes bits 127:0. -/
  | legacy {f : State → List Byte → State} {g : Feature} {lo : State → List Byte → DQWord} (hx : Puts i f)
      (hf : ∀ s bs, f s bs = s.setXmmKeep d (lo s bs)) (hg : i.gate = .sse g)
  /-- R25 (b): a VEX.128 row writes bits 127:0 and zeroes those above. -/
  | vex128 {f : State → List Byte → State} {lo : State → List Byte → DQWord} (hx : Puts i f)
      (hf : ∀ s bs, f s bs = s.setXmmZero d (lo s bs)) (hg : i.gate = .vex .avx)
      (hs : d ∉ i.vectorSources → ∀ s v bs, lo (s.setYmm d v) bs = lo s bs)
  /-- R25 (c): a VEX.256 row writes all bits. -/
  | vex256 {f : State → List Byte → State} {g : Feature} {all : State → List Byte → YWord} (hx : Puts i f)
      (hf : ∀ s bs, f s bs = s.setYmm d (all s bs)) (hg : i.gate = .vex g) (hl : i.is256 = true)
      (hs : d ∉ i.vectorSources → ∀ s v bs, all (s.setYmm d v) bs = all s bs)

theorem ne_of_not_source {d n : RegNum} {ns : List RegNum} (h : d ∉ n :: ns) : n ≠ d :=
  (List.ne_of_not_mem_cons h).symm

/-- Every row with a vector register as destination is of one of the three kinds. -/
theorem vectorRow (i : Instr) {d : RegNum} (hd : i.dest = .vector d) : VectorRow i d := by
  cases i with
  | movddup e =>
    cases hd
    exact .legacy (puts_moveIn (execMovddup e) (fun _ => rfl) rfl rfl) (fun _ _ => rfl) rfl
  | vmovddupX e =>
    cases hd
    exact .vex128 (puts_moveIn (execVmovddupX e) (fun _ => rfl) rfl rfl) (fun _ _ => rfl) rfl
      fun h s x bs => by rw [sourceValue_setYmm h State.lowAt_setYmm_ne]
  | vmovddupY e =>
    cases hd
    exact .vex256 (puts_moveIn (execVmovddupY e) (fun _ => rfl) rfl rfl) (fun _ _ => rfl) rfl rfl
      fun h s x bs => by rw [sourceValue_setYmm h State.ymmAt_setYmm_ne]
  | movdqaLoad e =>
    cases hd
    exact .legacy (puts_moveIn (execMovdqaLoad e) (fun _ => rfl) rfl rfl) (fun _ _ => rfl) rfl
  | movdqaStore e => exact .legacy (puts_moveOut (execMovdqaStore e) (fun _ => rfl) rfl rfl hd) (fun _ _ => rfl) rfl
  | vmovdqaXLoad e =>
    cases hd
    exact .vex128 (puts_moveIn (execVmovdqaXLoad e) (fun _ => rfl) rfl rfl) (fun _ _ => rfl) rfl
      fun h s x bs => by rw [sourceValue_setYmm h State.xmmAt_setYmm_ne]
  | vmovdqaXStore e =>
    exact .vex128 (puts_moveOut (execVmovdqaXStore e) (fun _ => rfl) rfl rfl hd) (fun _ _ => rfl) rfl
      fun h s x _ => State.xmmAt_setYmm_ne s x (ne_of_not_source h)
  | vmovdqaYLoad e =>
    cases hd
    exact .vex256 (puts_moveIn (execVmovdqaYLoad e) (fun _ => rfl) rfl rfl) (fun _ _ => rfl) rfl rfl
      fun h s x bs => by rw [sourceValue_setYmm h State.ymmAt_setYmm_ne]
  | vmovdqaYStore e =>
    exact .vex256 (puts_moveOut (execVmovdqaYStore e) (fun _ => rfl) rfl rfl hd) (fun _ _ => rfl) rfl rfl
      fun h s x _ => State.ymmAt_setYmm_ne s x (ne_of_not_source h)
  | movdquLoad e =>
    cases hd
    exact .legacy (puts_moveIn (execMovdquLoad e) (fun _ => rfl) rfl rfl) (fun _ _ => rfl) rfl
  | movdquStore e => exact .legacy (puts_moveOut (execMovdquStore e) (fun _ => rfl) rfl rfl hd) (fun _ _ => rfl) rfl
  | vmovdquXLoad e =>
    cases hd
    exact .vex128 (puts_moveIn (execVmovdquXLoad e) (fun _ => rfl) rfl rfl) (fun _ _ => rfl) rfl
      fun h s x bs => by rw [sourceValue_setYmm h State.xmmAt_setYmm_ne]
  | vmovdquXStore e =>
    exact .vex128 (puts_moveOut (execVmovdquXStore e) (fun _ => rfl) rfl rfl hd) (fun _ _ => rfl) rfl
      fun h s x _ => State.xmmAt_setYmm_ne s x (ne_of_not_source h)
  | vmovdquYLoad e =>
    cases hd
    exact .vex256 (puts_moveIn (execVmovdquYLoad e) (fun _ => rfl) rfl rfl) (fun _ _ => rfl) rfl rfl
      fun h s x bs => by rw [sourceValue_setYmm h State.ymmAt_setYmm_ne]
  | vmovdquYStore e =>
    exact .vex256 (puts_moveOut (execVmovdquYStore e) (fun _ => rfl) rfl rfl hd) (fun _ _ => rfl) rfl rfl
      fun h s x _ => State.ymmAt_setYmm_ne s x (ne_of_not_source h)
  | movhlps e =>
    cases hd
    exact .legacy (puts_regMove (execMovhlps e) (fun _ => rfl) rfl rfl) (fun _ _ => rfl) rfl
  | vmovhlps v e =>
    cases hd
    exact .vex128 (puts_regMove (execVmovhlps v e) (fun _ => rfl) rfl rfl) (fun _ _ => rfl) rfl
      fun h s x _ => by
        rw [State.highAt_setYmm_ne s x (ne_of_not_source h),
          State.highAt_setYmm_ne s x (ne_of_not_source (List.not_mem_of_not_mem_cons h))]
  | movhpdLoad e =>
    cases hd
    exact .legacy (puts_load (execMovhpdLoad e) (fun _ => rfl) rfl rfl rfl) (fun _ _ => rfl) rfl
  | vmovhpdLoad v e =>
    cases hd
    exact .vex128 (puts_load (execVmovhpdLoad v e) (fun _ => rfl) rfl rfl rfl) (fun _ _ => rfl) rfl
      fun h s x _ => by rw [State.lowAt_setYmm_ne s x (ne_of_not_source h)]
  | movhpsLoad e =>
    cases hd
    exact .legacy (puts_load (execMovhpsLoad e) (fun _ => rfl) rfl rfl rfl) (fun _ _ => rfl) rfl
  | vmovhpsLoad v e =>
    cases hd
    exact .vex128 (puts_load (execVmovhpsLoad v e) (fun _ => rfl) rfl rfl rfl) (fun _ _ => rfl) rfl
      fun h s x _ => by rw [State.lowAt_setYmm_ne s x (ne_of_not_source h)]
  | movlhps e =>
    cases hd
    exact .legacy (puts_regMove (execMovlhps e) (fun _ => rfl) rfl rfl) (fun _ _ => rfl) rfl
  | vmovlhps v e =>
    cases hd
    exact .vex128 (puts_regMove (execVmovlhps v e) (fun _ => rfl) rfl rfl) (fun _ _ => rfl) rfl
      fun h s x _ => by
        rw [State.lowAt_setYmm_ne s x (ne_of_not_source h),
          State.lowAt_setYmm_ne s x (ne_of_not_source (List.not_mem_of_not_mem_cons h))]
  | movlpdLoad e =>
    cases hd
    exact .legacy (puts_load (execMovlpdLoad e) (fun _ => rfl) rfl rfl rfl) (fun _ _ => rfl) rfl
  | vmovlpdLoad v e =>
    cases hd
    exact .vex128 (puts_load (execVmovlpdLoad v e) (fun _ => rfl) rfl rfl rfl) (fun _ _ => rfl) rfl
      fun h s x _ => by rw [State.highAt_setYmm_ne s x (ne_of_not_source h)]
  | movlpsLoad e =>
    cases hd
    exact .legacy (puts_load (execMovlpsLoad e) (fun _ => rfl) rfl rfl rfl) (fun _ _ => rfl) rfl
  | vmovlpsLoad v e =>
    cases hd
    exact .vex128 (puts_load (execVmovlpsLoad v e) (fun _ => rfl) rfl rfl rfl) (fun _ _ => rfl) rfl
      fun h s x _ => by rw [State.highAt_setYmm_ne s x (ne_of_not_source h)]
  | movntdqa e =>
    cases hd
    exact .legacy (puts_load (execMovntdqa e) (fun _ => rfl) rfl rfl rfl) (fun _ _ => rfl) rfl
  | vmovntdqaX e =>
    cases hd
    exact .vex128 (puts_load (execVmovntdqaX e) (fun _ => rfl) rfl rfl rfl) (fun _ _ => rfl) rfl fun _ _ _ _ => rfl
  | vmovntdqaY e =>
    cases hd
    exact .vex256 (puts_load (execVmovntdqaY e) (fun _ => rfl) rfl rfl rfl) (fun _ _ => rfl) rfl rfl
      fun _ _ _ _ => rfl
  | movqXmmLoad e =>
    cases hd
    exact .legacy (puts_moveIn (execMovqXmmLoad e) (fun _ => rfl) rfl rfl) (fun _ _ => rfl) rfl
  | vmovqReg e =>
    cases hd
    exact .vex128 (puts_regMove (execVmovqReg e) (fun _ => rfl) rfl rfl) (fun _ _ => rfl) rfl
      fun h s x _ => by rw [State.lowAt_setYmm_ne s x (ne_of_not_source h)]
  | vmovqLoad e =>
    cases hd
    exact .vex128 (puts_load (execVmovqLoad e) (fun _ => rfl) rfl rfl rfl) (fun _ _ => rfl) rfl fun _ _ _ _ => rfl
  | movqXmmStore e => exact .legacy (puts_moveOut (execMovqXmmStore e) (fun _ => rfl) rfl rfl hd) (fun _ _ => rfl) rfl
  | vmovqStore e =>
    exact .vex128 (puts_moveOut (execVmovqStore e) (fun _ => rfl) rfl rfl hd) (fun _ _ => rfl) rfl
      fun h s x _ => by rw [State.lowAt_setYmm_ne s x (ne_of_not_source h)]
  | movqMmStore e => exact absurd hd Operand.destMmx_ne_vector
  | _ => cases hd

/-! ### The policy -/

section
variable {i : Instr} {s t u : State} {d : RegNum}

/-- CheckVEX(f) lets pass only where the CPUID flag is set (R271). -/
theorem has_of_check_vex {g : Feature} (h : (Gate.vex g).check s = .ok ()) : s.has g = true := by
  simp only [Gate.check, checkVEX, Check.bind_eq_ok, failIf_eq_ok, Bool.not_eq_false'] at h
  obtain ⟨-, -, -, -, -, hg, -⟩ := h
  exact hg

/-- A legacy row keeps bits 255:128 of its destination (R25 (a)). -/
theorem VectorRow.upperAt_legacy (h : VectorRow i d) {g : Feature} (hg : i.gate = .sse g) (ht : exec i s = .next t) :
    t.upperAt d = s.upperAt d := by
  cases h with
  | legacy hx hf =>
    obtain ⟨-, k, bs, -, hy⟩ := hx.next ht
    rw [State.upperAt, hy, hf, State.ymmAt_setXmmKeep, if_pos rfl, extract_high_append]
    rfl
  | vex128 _ _ hv | vex256 _ _ hv => exact absurd (hg.symm.trans hv) (by simp)

/-- A VEX.128 row zeroes bits 255:128 of its destination (R25 (b)). -/
theorem VectorRow.upperAt_vex128 (h : VectorRow i d) {g : Feature} (hg : i.gate = .vex g) (hl : i.is256 = false)
    (ht : exec i s = .next t) : t.upperAt d = 0 := by
  cases h with
  | vex128 hx hf havx =>
    obtain ⟨hc, k, bs, -, hy⟩ := hx.next ht
    have hv : s.vlmax = 256 := State.vlmax_of_avx (has_of_check_vex (havx ▸ hc))
    rw [State.upperAt, hy, hf, State.ymmAt_setXmmZero _ d _ _ (show State.vlmax { s with draws := k } = 256 from hv),
      if_pos rfl, extract_high_append]
    rfl
  | legacy _ _ hs => exact absurd (hg.symm.trans hs) (by simp)
  | vex256 _ _ _ hl' => exact absurd (hl.symm.trans hl') (by simp)

/-- Where the value a row writes is the same after a write of its destination, so is what the destination holds in
the end. -/
theorem Puts.ymmAt_of_setYmm {f : State → List Byte → State} {all : State → List Byte → YWord} (hx : Puts i f)
    (hf : ∀ s bs, f s bs = s.setYmm d (all s bs)) {v : YWord} (hs : ∀ s bs, all (s.setYmm d v) bs = all s bs)
    (ht : exec i s = .next t) (hu : exec i (s.setYmm d v) = .next u) : u.ymmAt d = t.ymmAt d := by
  obtain ⟨-, k, bs, hl, hy⟩ := hx.next ht
  obtain ⟨-, k', bs', hl', hy'⟩ := hx.next hu
  rw [loaded_setYmm, hl] at hl'
  obtain ⟨hst, rfl⟩ := Prod.mk.inj (Check.ok.inj hl')
  rw [hy', hy, ← hst, hf, hf, hs, State.ymmAt_setYmm_setYmm]

/-- A VEX row writes all of its destination: what it held before has no bearing (R25 (b), (c)). -/
theorem VectorRow.ymmAt_vex (h : VectorRow i d) {g : Feature} (hg : i.gate = .vex g) (hd : d ∉ i.vectorSources)
    {v : YWord} (ht : exec i s = .next t) (hu : exec i (s.setYmm d v) = .next u) : u.ymmAt d = t.ymmAt d := by
  cases h with
  | vex128 hx hf _ hs =>
    exact hx.ymmAt_of_setYmm hf (fun s bs => congrArg (0#128 ++ ·) (hs hd s v bs)) ht hu
  | vex256 hx hf _ _ hs => exact hx.ymmAt_of_setYmm hf (fun s bs => hs hd s v bs) ht hu
  | legacy _ _ hs => exact absurd (hg.symm.trans hs) (by simp)

/-! ### The half moves -/

/-- The middle part of a concatenation of three. -/
theorem extract_middle_append {m n k : Nat} (x : BitVec m) (y : BitVec n) (z : BitVec k) :
    (x ++ (y ++ z)).extractLsb' k n = y := by
  apply BitVec.eq_of_getLsbD_eq
  intro j hj
  have hj' : k + j < n + k := by omega
  rw [BitVec.getLsbD_extractLsb', BitVec.getLsbD_append, if_pos hj', BitVec.getLsbD_append]
  simp [hj]

/-- The last part of a concatenation of three. -/
theorem extract_last_append {m n k : Nat} (x : BitVec m) (y : BitVec n) (z : BitVec k) :
    (x ++ (y ++ z)).extractLsb' 0 k = z := by
  apply BitVec.eq_of_getLsbD_eq
  intro j hj
  have hj' : 0 + j < n + k := by omega
  rw [BitVec.getLsbD_extractLsb', BitVec.getLsbD_append, if_pos hj', BitVec.getLsbD_append]
  simp [hj]

theorem State.highAt_setXmmKeep (s : State) (n : RegNum) (x y : QWord) :
    (s.setXmmKeep n (x ++ y)).highAt n = x := by
  rw [State.highAt, State.ymmAt_setXmmKeep, if_pos rfl]
  exact extract_middle_append _ _ _

theorem State.lowAt_setXmmKeep (s : State) (n : RegNum) (x y : QWord) :
    (s.setXmmKeep n (x ++ y)).lowAt n = y := by
  rw [State.lowAt, State.ymmAt_setXmmKeep, if_pos rfl]
  exact extract_last_append _ _ _

/-- A legacy row whose result has the destination's high half keeps that half. -/
theorem highAt_eq_of_puts {f : State → List Byte → State} {lo : State → List Byte → QWord}
    (ht : exec i s = .next t) (hx : Puts i f) (hf : ∀ s bs, f s bs = s.setXmmKeep d (s.highAt d ++ lo s bs)) :
    t.highAt d = s.highAt d := by
  obtain ⟨-, k, bs, -, hy⟩ := hx.next ht
  rw [State.highAt, hy, hf]
  exact State.highAt_setXmmKeep _ _ _ _

/-- A legacy row whose result has the destination's low half keeps that half. -/
theorem lowAt_eq_of_puts {f : State → List Byte → State} {hi : State → List Byte → QWord}
    (ht : exec i s = .next t) (hx : Puts i f) (hf : ∀ s bs, f s bs = s.setXmmKeep d (hi s bs ++ s.lowAt d)) :
    t.lowAt d = s.lowAt d := by
  obtain ⟨-, k, bs, -, hy⟩ := hx.next ht
  rw [State.lowAt, hy, hf]
  exact State.lowAt_setXmmKeep _ _ _ _

/-- The rows that name the low half only keep the high half (R165, R177, R181). -/
theorem exec_highAt (hi : (∃ e, i = .movhlps e) ∨ (∃ e, i = .movlpdLoad e) ∨ ∃ e, i = .movlpsLoad e)
    (hd : i.dest = .vector d) (ht : exec i s = .next t) : t.highAt d = s.highAt d := by
  rcases hi with ⟨e, rfl⟩ | ⟨e, rfl⟩ | ⟨e, rfl⟩ <;> cases hd
  · exact highAt_eq_of_puts ht (puts_regMove (execMovhlps e) (fun _ => rfl) rfl rfl) fun _ _ => rfl
  · exact highAt_eq_of_puts ht (puts_load (execMovlpdLoad e) (fun _ => rfl) rfl rfl rfl) fun _ _ => rfl
  · exact highAt_eq_of_puts ht (puts_load (execMovlpsLoad e) (fun _ => rfl) rfl rfl rfl) fun _ _ => rfl

/-- The rows that name the high half only keep the low half (R167, R171, R175). -/
theorem exec_lowAt (hi : (∃ e, i = .movlhps e) ∨ (∃ e, i = .movhpdLoad e) ∨ ∃ e, i = .movhpsLoad e)
    (hd : i.dest = .vector d) (ht : exec i s = .next t) : t.lowAt d = s.lowAt d := by
  rcases hi with ⟨e, rfl⟩ | ⟨e, rfl⟩ | ⟨e, rfl⟩ <;> cases hd
  · exact lowAt_eq_of_puts ht (puts_regMove (execMovlhps e) (fun _ => rfl) rfl rfl) fun _ _ => rfl
  · exact lowAt_eq_of_puts ht (puts_load (execMovhpdLoad e) (fun _ => rfl) rfl rfl rfl) fun _ _ => rfl
  · exact lowAt_eq_of_puts ht (puts_load (execMovhpsLoad e) (fun _ => rfl) rfl rfl rfl) fun _ _ => rfl

/-! ### Memory destinations -/

/-- Two register files that read alike are one. -/
theorem ymm_ext (h : ∀ n, t.ymmAt n = s.ymmAt n) : t.ymm = s.ymm :=
  Vector.ext fun j hj => h (BitVec.ofFin ⟨j, hj⟩)

end

/-- Settles O59: the three kinds of rows each keep their part of R25, and a memory destination is no vector
register. -/
theorem upperBitsPolicy : Obligations.UpperBitsPolicy := by
  intro i s t ht
  refine ⟨fun d hd => ?_, fun hd => ymm_ext fun n => exec_ymmAt ht n (by simp [hd])⟩
  have hrow := vectorRow i hd
  exact ⟨fun ⟨_, hg⟩ => hrow.upperAt_legacy hg ht, fun hi => exec_highAt hi hd ht, fun hi => exec_lowAt hi hd ht,
    fun ⟨_, hg⟩ hl => hrow.upperAt_vex128 hg hl ht, fun ⟨_, hg⟩ hs _ _ hu => hrow.ymmAt_vex hg hs ht hu⟩

end Sys2Proof.Machine
end

section
/-! The address of a memory operand and its bytes (20_memory.md R51, R52, R59, R60; 30_encoding.md R104). -/

namespace Sys2Proof.Machine

/-! ### The segment and the linear address (R60, R104) -/

section
variable {s : State} {r : MemRef} {g : Seg}

theorem segOf_of_override (h : segOverride r.prefixes = some g) : segOf r = g := by
  rw [segOf, h]

theorem segOf_of_no_override (h : segOverride r.prefixes = none) : segOf r = defaultSeg r.b r.op := by
  rw [segOf, h]

/-- A base register has SS as its default segment exactly where it is RSP or RBP. -/
theorem isStackBase_iff {n : RegNum} : isStackBase n = true ↔ n = 4 ∨ n = 5 := by
  simp [isStackBase]

theorem State.linear_mode64 (h : s.cfg.mode = .mode64) : s.linear r = s.segBase (segOf r) + s.offset r := by
  rw [State.linear, h]

theorem State.linear_mode32 (h : s.cfg.mode = .mode32) :
    s.linear r = (((s.segment (segOf r)).base + s.offset r).setWidth 32).setWidth 64 := by
  simp only [State.linear, State.segBase, h]

theorem State.segBase_fs (h : s.cfg.mode = .mode64) : s.segBase .fs = s.cfg.seg.fs.base := by
  rw [State.segBase, h, State.segment]

theorem State.segBase_gs (h : s.cfg.mode = .mode64) : s.segBase .gs = s.cfg.seg.gs.base := by
  rw [State.segBase, h, State.segment]

/-- In Mode64 the other four segments have base 0. -/
theorem State.segBase_flat (h : s.cfg.mode = .mode64) (hfs : g ≠ .fs) (hgs : g ≠ .gs) : s.segBase g = 0 := by
  unfold State.segBase
  rw [h]
  cases g with
  | fs => exact absurd rfl hfs
  | gs => exact absurd rfl hgs
  | es | cs | ss | ds => rfl

end

/-- Settles O13. -/
theorem linearAddress : Obligations.LinearAddress := by
  intro s r
  refine ⟨fun g => segOf_of_override, fun hno => ?_, fun hm => ?_, State.linear_mode32⟩
  · rw [segOf_of_no_override hno]
    refine ⟨fun rm d hop => ?_, fun sc ix bs d hop => ?_, fun sc ix d hop => ?_, fun d hop => ?_⟩ <;> rw [hop]
    · exact if_congr isStackBase_iff rfl rfl
    · exact if_congr isStackBase_iff rfl rfl
    · rfl
    · rfl
  · rw [State.linear_mode64 hm]
    refine ⟨fun h => ?_, fun h => ?_, fun hfs hgs => ?_⟩
    · rw [h, State.segBase_fs hm]
    · rw [h, State.segBase_gs hm]
    · rw [State.segBase_flat hm hfs hgs, zero_add]

/-! ### Canonical addresses (R59) -/

/-- The bits that an arithmetic shift to the right by `k` leaves are those from `k` up: all are `b` together. -/
theorem getLsbD_sshiftRight_eq_iff {a : QWord} {k : Nat} (hk : k < 64) (b : Bool) :
    (∀ i, i < 64 → (a.sshiftRight k).getLsbD i = b) ↔ ∀ i, k ≤ i → i < 64 → a.getLsbD i = b := by
  have hbit (i : Nat) (hi : i < 64) :
      (a.sshiftRight k).getLsbD i = if k + i < 64 then a.getLsbD (k + i) else a.getLsbD 63 := by
    rw [BitVec.getLsbD_sshiftRight, decide_eq_false (Nat.not_le.2 hi), BitVec.msb_eq_getLsbD_last, Bool.not_false,
      Bool.true_and]
  constructor
  · intro h i hki hi
    have := h (i - k) (by omega)
    rwa [hbit _ (by omega), Nat.add_sub_cancel' hki, if_pos hi] at this
  · intro h i hi
    rw [hbit i hi]
    split
    · exact h _ (Nat.le_add_right k i) ‹_›
    · exact h 63 (by omega) (by omega)

/-- An address is canonical exactly where one bit value fills it from LA_BITS-1 up. -/
theorem canonical_iff_exists {laBits : Nat} {a : QWord} (h : laBits ≤ 64) :
    canonical laBits a = true ↔ ∃ b, ∀ i, laBits - 1 ≤ i → i < 64 → a.getLsbD i = b := by
  have hk : laBits - 1 < 64 := by omega
  have hzero : a.sshiftRight (laBits - 1) = 0 ↔ ∀ i, i < 64 → (a.sshiftRight (laBits - 1)).getLsbD i = false := by
    rw [BitVec.eq_of_getLsbD_eq_iff]
    simp
  have hones : a.sshiftRight (laBits - 1) = BitVec.allOnes 64 ↔
      ∀ i, i < 64 → (a.sshiftRight (laBits - 1)).getLsbD i = true := by
    rw [BitVec.eq_of_getLsbD_eq_iff]
    exact forall₂_congr fun i hi => by rw [BitVec.getLsbD_allOnes, decide_eq_true hi]
  rw [canonical, Bool.or_eq_true, decide_eq_true_iff, decide_eq_true_iff, hzero, hones,
    getLsbD_sshiftRight_eq_iff hk, getLsbD_sshiftRight_eq_iff hk, Bool.exists_bool]

/-- Settles O17: the value that fills a canonical address is that of bit 63. -/
theorem canonicalAddresses : Obligations.CanonicalAddresses := by
  refine ⟨fun laBits a _ hle => (canonical_iff_exists hle).trans ⟨?_, fun h => ⟨_, h⟩⟩, rfl⟩
  rintro ⟨b, hb⟩ i hlo hi
  rw [hb i hlo hi, hb 63 (by omega) (by omega)]

/-! ### Lanes (R51, R52) -/

theorem getElem?_byteAddrs (md : Mode) (a : QWord) {n k : Nat} (h : k < n) :
    (byteAddrs md a n)[k]? = some (addrAdd md a k) := by
  simp [byteAddrs, h]

/-- The `n` bytes of an operand from byte `k` on are its bits from 8k on (R51). -/
theorem extractLsb'_leValue {w lo len k n : Nat} (bs : List Byte) (hlo : lo = 8 * k) (hlen : len = 8 * n)
    (hw : lo + len ≤ w) : (leValue w bs).extractLsb' lo len = leValue len ((bs.drop k).take n) := by
  subst hlo hlen
  refine BitVec.eq_of_getLsbD_eq fun i hi => ?_
  have hbyte : ((bs.drop k).take n).getD (i / 8) 0 = bs.getD ((8 * k + i) / 8) 0 := by
    have hin : i / 8 < n := by omega
    have hat : k + i / 8 = (8 * k + i) / 8 := by omega
    rw [List.getD_eq_getElem?_getD, List.getElem?_take_of_lt hin, List.getElem?_drop, hat, List.getD_eq_getElem?_getD]
  have hmod : (8 * k + i) % 8 = i % 8 := by omega
  have hlt : 8 * k + i < w := by omega
  rw [BitVec.getLsbD_extractLsb', getLsbD_leValue, getLsbD_leValue, hbyte, hmod, decide_eq_true hlt]
  simp

/-- Settles O15: every lane is a case of `extractLsb'_leValue`. -/
theorem lanePlacement : Obligations.LanePlacement := by
  refine ⟨fun md a n k => getElem?_byteAddrs md a, fun bs hbs => ⟨?_, ?_, fun j hj => ?_⟩,
    fun bs _ => ⟨?_, ?_, ?_, ?_, fun j hj => ?_⟩⟩
  · exact extractLsb'_leValue (k := 0) (n := 8) bs rfl rfl (by omega)
  · have hlast : (bs.drop 8).take 8 = bs.drop 8 := List.take_of_length_le (by simp [hbs])
    exact hlast ▸ extractLsb'_leValue (k := 8) (n := 8) bs rfl rfl (by omega)
  · exact extractLsb'_leValue bs (by omega) rfl (by omega)
  · exact extractLsb'_leValue (k := 0) (n := 8) bs rfl rfl (by omega)
  · exact extractLsb'_leValue bs rfl rfl (by omega)
  · exact extractLsb'_leValue bs rfl rfl (by omega)
  · exact extractLsb'_leValue bs rfl rfl (by omega)
  · exact extractLsb'_leValue bs (by omega) rfl (by omega)

end Sys2Proof.Machine
end

section
/-! The checks of a memory access, one after another (20_memory.md R54 to R58, R75; 60_exceptions.md R263 to R266). -/

namespace Sys2Proof.Machine

/-! ### When each check lets pass -/

section
variable {s : State} {kind : AccessKind} {al : AlignRule} {n : Nat} {r : MemRef} {la : QWord} {as : List QWord}
  {locs : List Nat}

theorem State.passesSegmentEnd_iff :
    s.passesSegmentEnd r n = true ↔
      addrSize s.cfg.mode r.prefixes = .a16 ∧ 0xFFFF < (s.offset r).toNat + (n - 1) := by
  simp [State.passesSegmentEnd]

/-- In Mode64 the address form is that of the bytes' addresses alone (R58). -/
theorem State.addressForm_mode64 (h : s.cfg.mode = .mode64) :
    s.addressForm kind r n = true ↔ ∀ a ∈ byteAddrs .mode64 (s.linear r) n, canonical s.cfg.laBits a = true := by
  simp [State.addressForm, State.segmentUsable, State.addressInside, h]

theorem toNat_addrAdd_mode32 (a : QWord) (k : Nat) : (addrAdd .mode32 a k).toNat = (a.toNat + k) % 2 ^ 32 := by
  simp [addrAdd]
  omega

/-- In Mode32 the address form is that of the segment and of the bytes' offsets (R58, R263). -/
theorem State.addressForm_mode32 (h : s.cfg.mode = .mode32) :
    s.addressForm kind r n = true ↔
      (s.segment (segOf r)).null = false ∧ (kind = .write → (s.segment (segOf r)).writable = true) ∧
        ∀ k, k < n → ((s.offset r).toNat + k) % 2 ^ 32 ≤ (s.segment (segOf r)).limit.toNat := by
  have hin : s.addressInside r n = true ↔
      ∀ k, k < n → ((s.offset r).toNat + k) % 2 ^ 32 ≤ (s.segment (segOf r)).limit.toNat := by
    simp [State.addressInside, h, byteAddrs, toNat_addrAdd_mode32]
  rw [State.addressForm, Bool.and_eq_true, State.segmentUsable_iff, hin, imp_iff_right h, and_assoc]

/-- A bad address through SS is #SS(0) where the segment may be used (R264). -/
theorem State.addressExn_ss (hseg : segOf r = .ss) (hu : s.segmentUsable kind r = true) :
    s.addressExn kind r = .ss :=
  if_pos ⟨hu, hseg⟩

/-- A bad address is #GP(0) through another segment, and where the segment may not be used (R263). -/
theorem State.addressExn_gp (h : segOf r ≠ .ss ∨ s.segmentUsable kind r = false) : s.addressExn kind r = .gp := by
  refine if_neg fun ⟨hu, hseg⟩ => ?_
  rcases h with h | h
  · exact h hseg
  · exact Bool.false_ne_true (h.symm.trans hu)

theorem alignRequired_eq_ok : alignRequired al la = .ok () ↔ ∀ k, al = .required k → la.toNat % k = 0 := by
  cases al <;> simp [alignRequired]

/-- Where its rule is met, alignment checking lets pass and draws nothing (R56). -/
theorem AlignRule.Met.alignChecked (h : al.Met s la) : alignChecked al la s = .ok s := by
  cases al with
  | required k => rfl
  | definite k => exact if_neg fun ⟨hac, hmis⟩ => hmis (h hac)
  | draw k => exact if_neg fun ⟨hac, hmis⟩ => hmis (h hac)

theorem State.textCheck_ok (h : kind = .write → s.overlapsText as locs = false) :
    s.textCheck kind as locs = .ok () := by
  cases kind with
  | read => rfl
  | write => rw [State.textCheck, h rfl]; rfl

/-- The bytes before the first one that is not "ok" have no part in what the translation answers (R61). -/
theorem State.translate_append (hl : s.Located kind as locs) (rest : List QWord) :
    s.translate kind (as ++ rest) = (s.translate kind rest).bind fun ls => .ok (locs ++ ls) := by
  induction hl with
  | nil => cases h : s.translate kind rest <;> simp [h, Check.bind]
  | cons hd _ ih =>
    obtain ⟨phys, hok, rfl⟩ := hd
    rw [List.cons_append, State.translate, hok]
    simp only [ih, Check.bind_assoc, Check.bind_ok_left, List.cons_append]

end

/-! ### The outcome of an access that a check stops, each check behind those before it (R58) -/

section
variable {s : State} {kind : AccessKind} {al : AlignRule} {n : Nat} {r : MemRef}

theorem memAccess_of_segmentEnd (h : s.passesSegmentEnd r n = true) :
    memAccess kind al n r s = .refuse .segmentEnd16 :=
  if_pos h

section
variable (hend : s.passesSegmentEnd r n = false)
include hend

theorem memAccess_of_bad_form (hform : s.addressForm kind r n = false) :
    memAccess kind al n r s = .raise (s.addressExn kind r) := by
  rw [memAccess, hend, hform]
  rfl

section
variable (hform : s.addressForm kind r n = true)
include hform

theorem memAccess_of_misaligned {k : Nat} (hal : al = .required k) (hmis : (s.linear r).toNat % k ≠ 0) :
    memAccess kind al n r s = .raise .gp := by
  rw [memAccess, hend, hform, hal, alignRequired, decide_eq_true hmis]
  rfl

section
variable (hreq : alignRequired al (s.linear r) = .ok ())
include hreq

/-- Past the address form and the alignment that R54 requires, the oracle is asked. -/
theorem memAccess_of_aligned :
    memAccess kind al n r s =
      (s.translate kind (byteAddrs s.cfg.mode (s.linear r) n)).bind fun locs =>
        (alignChecked al (s.linear r) s).bind fun t =>
          (s.textCheck kind (byteAddrs s.cfg.mode (s.linear r) n) locs).bind fun _ => .ok (t, locs) := by
  rw [memAccess, hend, hform, hreq]
  rfl

/-- The first byte that is not "ok" decides (R61; assumption log 5). -/
theorem memAccess_of_first_bad {pre post : List QWord} {a : QWord} {locs : List Nat}
    (has : byteAddrs s.cfg.mode (s.linear r) n = pre ++ a :: post) (hpre : s.Located kind pre locs) :
    (∀ c b, s.accessByte kind a = .pf c b → memAccess kind al n r s = .raise (.pf c b)) ∧
      (s.accessByte kind a = .gp → memAccess kind al n r s = .raise .gp) ∧
      (s.accessByte kind a = .ss → memAccess kind al n r s = .raise .ss) ∧
      (s.accessByte kind a = .device → memAccess kind al n r s = .refuse .device) := by
  rw [memAccess_of_aligned hend hform hreq, has, State.translate_append hpre, State.translate]
  refine ⟨fun c b h => ?_, fun h => ?_, fun h => ?_, fun h => ?_⟩ <;> rw [h] <;> rfl

section
variable {locs : List Nat} (hl : s.Located kind (byteAddrs s.cfg.mode (s.linear r) n) locs)
include hl

/-- Past the oracle, alignment checking and then the text check decide (R56, R75). -/
theorem memAccess_of_located :
    memAccess kind al n r s =
      (alignChecked al (s.linear r) s).bind fun t =>
        (s.textCheck kind (byteAddrs s.cfg.mode (s.linear r) n) locs).bind fun _ => .ok (t, locs) := by
  rw [memAccess_of_aligned hend hform hreq, State.translate_eq_ok.2 hl, Check.bind_ok_left]

theorem memAccess_of_alignChecked_raise {e : Exn} (h : alignChecked al (s.linear r) s = .raise e) :
    memAccess kind al n r s = .raise e := by
  rw [memAccess_of_located hend hform hreq hl, h, Check.bind_raise_left]

theorem memAccess_of_overlapsText (hmet : al.Met s (s.linear r)) (hk : kind = .write)
    (ht : s.overlapsText (byteAddrs s.cfg.mode (s.linear r) n) locs = true) :
    memAccess kind al n r s = .refuse .storeToText := by
  subst hk
  rw [memAccess_of_located hend hform hreq hl, hmet.alignChecked, State.textCheck, ht]
  rfl

end
end
end
end

/-- A misaligned operand of an 8- or 4-byte access is #AC(0) under alignment checking (R56 (b)). -/
theorem alignChecked_definite {k : Nat} {la : QWord} (hac : s.alignCheck = true) (hmis : la.toNat % k ≠ 0) :
    alignChecked (.definite k) la s = .raise .ac :=
  if_pos ⟨hac, hmis⟩

end

/-- The exception of a bad address form, by segment and mode (R263, R264; assumption log 13). -/
theorem addressExn_by_segment (s : State) (kind : AccessKind) (r : MemRef) :
    (segOf r ≠ .ss → s.addressExn kind r = .gp) ∧
      (segOf r = .ss → s.cfg.mode = .mode64 → s.addressExn kind r = .ss) ∧
      (segOf r = .ss → s.cfg.mode = .mode32 →
        (s.cfg.seg.ss.null = false → (kind = .write → s.cfg.seg.ss.writable = true) → s.addressExn kind r = .ss) ∧
        (s.cfg.seg.ss.null = true ∨ (kind = .write ∧ s.cfg.seg.ss.writable = false) →
          s.addressExn kind r = .gp)) := by
  refine ⟨fun hseg => State.addressExn_gp (.inl hseg), fun hseg hm => ?_, fun hseg hm => ⟨fun hnull hw => ?_, ?_⟩⟩
  · refine State.addressExn_ss hseg (State.segmentUsable_iff.2 fun hm' => ?_)
    rw [hm] at hm'
    cases hm'
  · refine State.addressExn_ss hseg (State.segmentUsable_iff.2 fun _ => ?_)
    rw [hseg]
    exact ⟨hnull, hw⟩
  · intro hbad
    refine State.addressExn_gp (.inr (Bool.eq_false_iff.2 fun hu => ?_))
    obtain ⟨hnull, hw⟩ := State.segmentUsable_iff.1 hu hm
    rw [hseg] at hnull hw
    rcases hbad with h | ⟨hk, h⟩
    · exact Bool.false_ne_true (hnull.symm.trans h)
    · exact Bool.false_ne_true (h.symm.trans (hw hk))

/-- Settles O18: each clause is a check that stops the access, or lets it go on to the next. -/
theorem orderOfAccessChecks : Obligations.OrderOfAccessChecks := by
  intro kind al n r s
  refine ⟨State.passesSegmentEnd_iff, State.addressForm_mode64, State.addressForm_mode32, memAccess_of_segmentEnd,
    fun hend => ⟨fun hform => ?_, fun hform => ⟨fun k => memAccess_of_misaligned hend hform, fun hal => ?_⟩⟩⟩
  · rw [memAccess_of_bad_form hend hform]
    simpa only [Check.raise.injEq] using addressExn_by_segment s kind r
  · have hreq := alignRequired_eq_ok.2 hal
    refine ⟨fun pre post a locs => memAccess_of_first_bad hend hform hreq, fun locs hl => ⟨?_, ?_, ?_⟩⟩
    · rintro k rfl hac hmis
      exact memAccess_of_alignChecked_raise hend hform hreq hl (alignChecked_definite hac hmis)
    · exact memAccess_of_overlapsText hend hform hreq hl
    · exact fun hmet ht => State.Accessible.memAccess ⟨hend, hform, hmet, hl, ht⟩

/-! ### The rows and their alignment (R53 to R56) -/

theorem Operand.access_eq_some {o : Operand} {kind : AccessKind} {n : Nat} {al : AlignRule} {a : MemAccess} :
    o.access kind n al = some a ↔ ∃ r, o = .mem r ∧ a = ⟨kind, n, al, r⟩ := by
  cases o <;> simp [Operand.access, eq_comm]

/-- What must be aligned is aligned on its own size: the rows of MOVDQA and the non-temporal vector moves (R54). -/
theorem size_of_align_required {i : Instr} {a : MemAccess} {n : Nat} (ha : i.access = some a)
    (hn : a.align = .required n) : n = a.size ∧ (n = 16 ∨ n = 32) := by
  cases i with
  | movdqaLoad | movdqaStore | vmovdqaXLoad | vmovdqaXStore =>
    obtain ⟨r, -, rfl⟩ := Operand.access_eq_some.1 ha
    cases hn
    exact ⟨rfl, .inl rfl⟩
  | vmovdqaYLoad | vmovdqaYStore =>
    obtain ⟨r, -, rfl⟩ := Operand.access_eq_some.1 ha
    cases hn
    exact ⟨rfl, .inr rfl⟩
  | movntdqa | vmovntdqaX | movntdq | vmovntdqX | movntpd | vmovntpdX | movntps | vmovntpsX =>
    cases ha
    cases hn
    exact ⟨rfl, .inl rfl⟩
  | vmovntdqaY | vmovntdqY | vmovntpdY | vmovntpsY =>
    cases ha
    cases hn
    exact ⟨rfl, .inr rfl⟩
  | movddup | vmovddupX | vmovddupY | movdquLoad | movdquStore | vmovdquXLoad | vmovdquXStore | vmovdquYLoad
  | vmovdquYStore | movqMmLoad | movqMmStore | movqXmmLoad | movqXmmStore | vmovqStore =>
    obtain ⟨r, -, rfl⟩ := Operand.access_eq_some.1 ha
    cases hn
  | movdq2q | movhlps | vmovhlps | movlhps | vmovlhps | movmskpd | vmovmskpdX | vmovmskpdY | movmskps | vmovmskpsX
  | vmovmskpsY | vmovqReg =>
    cases ha
  | _ =>
    cases ha
    cases hn

/-- An instruction whose access raises an exception faults with it, at the unchanged RIP (R58, R281). -/
theorem exec_of_memAccess_raise {i : Instr} {s : State} {a : MemAccess} {e : Exn} (hr : i.gate.Ready s)
    (ha : i.access = some a) (h : memAccess a.kind a.align a.size a.ref s = .raise e) :
    exec i s = .fault (exnFault e s.rip) := by
  obtain ⟨hraise, -⟩ := accessOutcomesAreTheInstructions i s a hr ha
  exact hraise e h

/-- Settles O19. -/
theorem alignedMovesRaiseGp : Obligations.AlignedMovesRaiseGp :=
  ⟨fun _ _ _ _ hr ha hal hend hform hmis =>
    exec_of_memAccess_raise hr ha (memAccess_of_misaligned hend hform hal hmis),
    fun _ _ _ => size_of_align_required⟩

/-! ### Alignment checking: on, and with RFLAGS.AC = 0 off (R55, R56) -/

theorem State.alignCheck_iff {s : State} :
    s.alignCheck = true ↔ s.cr0.getLsbD 18 = true ∧ s.rflags.getLsbD 18 = true ∧ s.cpl = 3 := by
  simp [State.alignCheck, State.am, State.ac, and_assoc]

/-- An operand that is accessible with alignment checking off passes every check but that with it on: none of the
others reads RFLAGS (R58). -/
theorem memAccess_of_accessible_withoutAc {s : State} {kind : AccessKind} {al : AlignRule} {n : Nat} {r : MemRef}
    {locs : List Nat} (hreq : alignRequired al (s.linear r) = .ok ()) (h : s.withoutAc.Accessible kind al n r locs) :
    memAccess kind al n r s = (alignChecked al (s.linear r) s).bind fun t => .ok (t, locs) := by
  obtain ⟨hend, hform, -, hl, ht⟩ := h
  have htext : s.textCheck kind (byteAddrs s.cfg.mode (s.linear r) n) locs = .ok () := State.textCheck_ok ht
  rw [memAccess_of_located (s := s) hend hform hreq hl, htext]
  rfl

/-- Settles O20. -/
theorem narrowAccessesRaiseAc : Obligations.NarrowAccessesRaiseAc := by
  refine ⟨fun s => State.alignCheck_iff, fun i s a n locs hr ha hal hac hmis hacc => ?_⟩
  refine exec_of_memAccess_raise (e := .ac) hr ha ?_
  rw [hal] at hacc ⊢
  rw [memAccess_of_accessible_withoutAc rfl hacc, alignChecked_definite hac hmis, Check.bind_raise_left]

/-! ### The draw (R56 (a), (c)) -/

section
variable {s u : State} {locs : List Nat} {i : Instr} {a : MemAccess} {f : State → List Byte → State}
  {b : State → List Byte}

/-- The draw, by its value (assumption log 4). -/
theorem alignChecked_draw {k : Nat} {la : QWord} (hac : s.alignCheck = true) (hmis : la.toNat % k ≠ 0) :
    alignChecked (.draw k) la s =
      if Config.acDraw s.draws then .raise .ac else .ok { s with draws := s.draws + 1 } :=
  if_pos ⟨hac, hmis⟩

/-- What an instruction with effect `f` makes of the state `u` and the locations that the checks of its access `a`
answer, `bs` being the bytes it stores. -/
def afterAccess (a : MemAccess) (f : State → List Byte → State) (bs : List Byte) (u : State) (locs : List Nat) :
    State :=
  match a.kind with
  | .read => f u (u.mem.readAll locs)
  | .write => f { u with mem := u.mem.writeAll locs bs } []

theorem afterGate_of_memAccess (ha : i.access = some a)
    (hm : memAccess a.kind a.align a.size a.ref s = .ok (u, locs)) :
    afterGate i f b s = .ok (afterAccess a f (b s) u locs) := by
  rw [afterGate, ha]
  simp only [hm, Check.bind_ok_left, afterAccess]
  cases a.kind <;> rfl

/-- An instruction neither reads nor changes RFLAGS and the draw counter once its access has passed the checks. -/
theorem EffectKeeps.withFlags (keeps : EffectKeeps i f) (t : State) (fl : QWord) (k : Nat) (bs : List Byte) :
    f { t with rflags := fl, draws := k } bs = { f t bs with rflags := fl, draws := k } := by
  obtain ⟨-, -, -, -, hcpl, -, -, -, hcfg⟩ := keeps.system t bs
  refine (keeps.context ⟨fl, k, t.cpl, t.cfg.memTypes⟩ t bs).trans ?_
  rw [State.inContext, ← hcpl, ← hcfg]

theorem EffectKeeps.afterAccess_withFlags (keeps : EffectKeeps i f) (a : MemAccess) (t : State) (fl : QWord) (k : Nat)
    (bs : List Byte) (locs : List Nat) :
    afterAccess a f bs { t with rflags := fl, draws := k } locs =
      { afterAccess a f bs t locs with rflags := fl, draws := k } := by
  unfold afterAccess
  cases a.kind with
  | read => exact keeps.withFlags t fl k _
  | write => exact keeps.withFlags { t with mem := t.mem.writeAll locs bs } fl k []

/-- No check procedure reads RFLAGS (R270 to R274). -/
theorem Gate.Ready.withoutAc {g : Gate} (h : g.Ready s) : g.Ready s.withoutAc := by
  cases g <;> exact h

/-- An access that takes a draw and goes on completes as with alignment checking off, but for the draw counter. -/
theorem exec_of_draw (hr : i.gate.Ready s) (ha : i.access = some a)
    (hm : memAccess a.kind a.align a.size a.ref s = .ok ({ s with draws := s.draws + 1 }, locs))
    (hm' : memAccess a.kind a.align a.size a.ref s.withoutAc = .ok (s.withoutAc, locs)) :
    ∃ u, exec i s.withoutAc = .next u ∧ exec i s = .next { u with rflags := s.rflags, draws := s.draws + 1 } := by
  obtain ⟨f, b, keeps, hb, hx⟩ := exec_effect i
  have hbytes : b s.withoutAc = b s := hb ⟨s.withoutAc.rflags, s.draws, s.cpl, s.cfg.memTypes⟩ s
  have hflags := keeps.afterAccess_withFlags a s.withoutAc s.rflags (s.draws + 1) (b s) locs
  refine ⟨{ afterAccess a f (b s) s.withoutAc locs with rip := s.nextRip i.len }, ?_, ?_⟩
  · rw [hx, Gate.check_of_ready hr.withoutAc, Check.bind_ok_left, afterGate_of_memAccess ha hm', hbytes]
    rfl
  · rw [hx, Gate.check_of_ready hr, Check.bind_ok_left, afterGate_of_memAccess ha hm]
    exact congrArg (fun t => complete i.len s (.ok t)) hflags

end

/-- Settles O25. -/
theorem alignmentCheckDrawn : Obligations.AlignmentCheckDrawn := by
  intro i s a n locs hr ha hal hac hmis hacc
  have hm : memAccess a.kind a.align a.size a.ref s =
      if Config.acDraw s.draws then .raise .ac else .ok ({ s with draws := s.draws + 1 }, locs) := by
    rw [hal] at hacc ⊢
    rw [memAccess_of_accessible_withoutAc rfl hacc, alignChecked_draw hac hmis]
    split <;> rfl
  refine ⟨fun hd => exec_of_memAccess_raise (e := .ac) hr ha ?_, fun hd => exec_of_draw hr ha ?_ hacc.memAccess⟩
  · rw [hm, if_pos hd]
  · rw [hm, hd]
    rfl

end Sys2Proof.Machine
end

section
/-! What the decoder accepts is what the encoder writes (R80 to R98, R110, R111, R114, R117): prefixes, ModRM and what
follows it, the rows and the VEX prefix, each read from its own bytes alone. -/

namespace Sys2Proof

/-- Settles O1. -/
theorem decodeOfEncode : Obligations.DecodeOfEncode := fun _ _ rest h => decode_encode rest h

/-! ### Prefixes (R81, R84) -/

/-- The byte of a prefix (R81, R84). -/
def PrefixItem.byte (it : PrefixItem) : Byte :=
  match it with
  | .legacy p => p.byte
  | .rex r => r.byte

theorem map_byte_prefixItems (ps : List Prefix) (rex : Option Rex) :
    (prefixItems ps rex).map PrefixItem.byte = ps.map Prefix.byte ++ rex.toList.map Rex.byte := by
  cases rex <;> simp [prefixItems, Function.comp_def, PrefixItem.byte]

/-- A byte that is read as a prefix is the byte of that prefix. -/
theorem byte_of_readItem {m : Mode} {b : Byte} {it : PrefixItem} (h : readItem m b = some it) : it.byte = b := by
  have hall : ∀ b, (readItem m b).all (·.byte == b) = true := by cases m <;> decide
  simpa [h] using hall b

/-- In Mode32 no byte is a REX prefix (R84). -/
theorem readItem_mode32_ne_rex (b : Byte) (r : Rex) : readItem .mode32 b ≠ some (.rex r) := by
  rw [readItem]
  cases readPrefix b <;> simp

/-- What `readPrefixes` answers: bytes of prefixes, up to the first byte that is none. -/
theorem readPrefixes_eq {m : Mode} {bs rest : List Byte} {items : List PrefixItem}
    (h : readPrefixes m bs = (items, rest)) :
    bs = items.map PrefixItem.byte ++ rest ∧ ∀ it ∈ items, readItem m it.byte = some it := by
  induction bs generalizing items with
  | nil =>
    obtain ⟨rfl, rfl⟩ := Prod.mk.inj h
    simp
  | cons b bs ih =>
    rw [readPrefixes] at h
    cases hb : readItem m b with
    | none =>
      obtain ⟨rfl, rfl⟩ := Prod.mk.inj (hb ▸ h)
      simp
    | some it =>
      rw [hb] at h
      obtain ⟨rfl, rfl⟩ := Prod.mk.inj h
      obtain ⟨hbs, hitems⟩ := ih rfl
      have hbyte := byte_of_readItem hb
      refine ⟨by rw [List.map_cons, hbyte, List.cons_append, ← hbs], ?_⟩
      simpa [hbyte, hb] using hitems

/-- The decoder reads prefixes of either kind, in any order, up to the first byte that is none. -/
theorem readPrefixes_items {m : Mode} {b : Byte} {items : List PrefixItem} (rest : List Byte)
    (hit : ∀ it ∈ items, readItem m it.byte = some it) (hb : readItem m b = none) :
    readPrefixes m (items.map PrefixItem.byte ++ b :: rest) = (items, b :: rest) := by
  induction items with
  | nil => simp [readPrefixes, hb]
  | cons it items ih =>
    obtain ⟨hfirst, hrest⟩ := List.forall_mem_cons.1 hit
    simp [readPrefixes, hfirst, ih hrest]

/-- REX stands at most once and last exactly where the prefixes split (R84, R117). -/
theorem splitItems_eq_some {items : List PrefixItem} {ps : List Prefix} {rex : Option Rex} :
    splitItems items = some (ps, rex) ↔ items = prefixItems ps rex := by
  constructor
  · induction items using splitItems.induct generalizing ps with
    | case1 => simp +contextual [splitItems, prefixItems, eq_comm]
    | case2 r => simp +contextual [splitItems, prefixItems, eq_comm]
    | case3 p rest ih =>
      intro h
      obtain ⟨⟨qs, rex'⟩, hsplit, hq⟩ := Option.map_eq_some_iff.1 (splitItems.eq_3 p rest ▸ h)
      obtain ⟨rfl, rfl⟩ := Prod.mk.inj hq
      rw [ih hsplit]
      rfl
    | case4 => simp [splitItems]
  · rintro rfl
    exact splitItems_prefixItems ps rex

/-- I.pp is that of a well-formed prefix set, and no other prefix set has one (R117). -/
theorem simdOf_eq_some {ps : List Prefix} {pp : SimdPrefix} : simdOf ps = some pp ↔ wfPrefixes pp ps = true := by
  refine ⟨fun h => ?_, simdOf_of_wfPrefixes⟩
  rw [simdOf] at h
  split at h
  · rename_i hc
    obtain ⟨hseg, haddr, hlock⟩ := hc
    refine wfPrefixes_iff.2 ⟨hseg, haddr, ?_, hlock⟩
    split at h <;> cases h <;> assumption
  · cases h

/-! ### ModRM, SIB and displacement (R85 to R87) -/

theorem bytes16_append (b1 b0 : Byte) : bytes16 (b1 ++ b0) = [b0, b1] := by
  simp only [bytes16, BitVec.extractLsb'_append_eq_right, BitVec.extractLsb'_append_eq_left]

theorem bytes32_append (b3 b2 b1 b0 : Byte) : bytes32 (b3 ++ b2 ++ b1 ++ b0) = [b0, b1, b2, b3] := by
  simp (disch := omega) only [bytes32, BitVec.extractLsb'_append_eq_right, BitVec.extractLsb'_append_eq_of_le,
    Nat.reduceSub, BitVec.extractLsb'_eq_self]

theorem eq_bytes16_of_read16 {bs rest : List Byte} {d : BitVec 16} (h : read16 bs = some (d, rest)) :
    bs = bytes16 d ++ rest := by
  unfold read16 at h
  split at h <;> cases h
  rw [bytes16_append]
  rfl

theorem eq_bytes32_of_read32 {bs rest : List Byte} {d : BitVec 32} (h : read32 bs = some (d, rest)) :
    bs = bytes32 d ++ rest := by
  unfold read32 at h
  split at h <;> cases h
  rw [bytes32_append]
  rfl

theorem mod_eq_two {mod : BitVec 2} (h0 : mod ≠ 0) (h1 : mod ≠ 1) (h3 : mod ≠ 3) : mod = 2 := by
  revert mod; decide

theorem eq_bytes_of_readDisp {mod : BitVec 2} {bs rest : List Byte} {d : Disp} (hmod : mod ≠ 3)
    (h : readDisp mod bs = some (d, rest)) : d.mod = mod ∧ bs = d.bytes ++ rest := by
  unfold readDisp at h
  split_ifs at h with h0 h1
  · cases h
    exact ⟨h0.symm, rfl⟩
  · cases bs <;> cases h
    exact ⟨h1.symm, rfl⟩
  · obtain ⟨⟨v, bs'⟩, hr, he⟩ := Option.map_eq_some_iff.1 h
    cases he
    exact ⟨(mod_eq_two h0 h1 hmod).symm, eq_bytes32_of_read32 hr⟩

theorem eq_bytes_of_readDisp16 {mod : BitVec 2} {bs rest : List Byte} {d : Disp16} (hmod : mod ≠ 3)
    (h : readDisp16 mod bs = some (d, rest)) : d.mod = mod ∧ bs = d.bytes ++ rest := by
  unfold readDisp16 at h
  split_ifs at h with h0 h1
  · cases h
    exact ⟨h0.symm, rfl⟩
  · cases bs <;> cases h
    exact ⟨h1.symm, rfl⟩
  · obtain ⟨⟨v, bs'⟩, hr, he⟩ := Option.map_eq_some_iff.1 h
    cases he
    exact ⟨(mod_eq_two h0 h1 hmod).symm, eq_bytes16_of_read16 hr⟩

/-- A byte is made of its three fields, as ModRM and SIB are (R85, R86). -/
theorem modRM_fields (b : Byte) : modRM (b.extractLsb' 6 2) (b.extractLsb' 3 3) (b.extractLsb' 0 3) = b := by
  revert b; decide

/-- A 32- or 64-bit addressing form is read from its own bytes. -/
theorem eq_memBytes_of_readMem {mod : BitVec 2} {rm : BitVec 3} {bs rest : List Byte} {op : MemOp} (reg : BitVec 3)
    (hmod : mod ≠ 3) (h : readMem mod rm bs = some (op, rest)) :
    wfMem false op = true ∧ modRM mod reg rm :: bs = memBytes reg op ++ rest := by
  unfold readMem at h
  split_ifs at h with hsib habs
  · subst hsib
    cases bs with
    | nil => cases h
    | cons s bs =>
      have hs : sibByte (s.extractLsb' 6 2) (s.extractLsb' 3 3) (s.extractLsb' 0 3) = s := modRM_fields s
      dsimp only at h
      split_ifs at h with hbase <;> obtain ⟨⟨d, bs'⟩, hr, he⟩ := Option.map_eq_some_iff.1 h <;> cases he
      · obtain ⟨rfl, h5⟩ := hbase
        refine ⟨rfl, ?_⟩
        rw [eq_bytes32_of_read32 hr, memBytes, ← h5, hs]
        rfl
      · obtain ⟨rfl, rfl⟩ := eq_bytes_of_readDisp hmod hr
        refine ⟨?_, by rw [memBytes, hs]; rfl⟩
        have hb : s.extractLsb' 0 3 ≠ 5#3 ∨ d ≠ .none := by
          rw [← not_and_or]
          rintro ⟨h5, rfl⟩
          exact hbase ⟨rfl, h5⟩
        simpa [wfMem] using hb
  · obtain ⟨⟨d, bs'⟩, hr, he⟩ := Option.map_eq_some_iff.1 h
    cases he
    obtain ⟨rfl, rfl⟩ := habs
    exact ⟨rfl, by rw [eq_bytes32_of_read32 hr]; rfl⟩
  · obtain ⟨⟨d, bs'⟩, hr, he⟩ := Option.map_eq_some_iff.1 h
    cases he
    obtain ⟨rfl, rfl⟩ := eq_bytes_of_readDisp hmod hr
    refine ⟨?_, rfl⟩
    have hb : rm ≠ 5#3 ∨ d ≠ .none := by
      rw [← not_and_or]
      rintro ⟨h5, rfl⟩
      exact habs ⟨rfl, h5⟩
    simpa [wfMem, show rm ≠ 4#3 from hsib] using hb

/-- A 16-bit addressing form is read from its own bytes. -/
theorem eq_memBytes_of_readMem16 {mod : BitVec 2} {rm : BitVec 3} {bs rest : List Byte} {op : MemOp} (reg : BitVec 3)
    (hmod : mod ≠ 3) (h : readMem16 mod rm bs = some (op, rest)) :
    wfMem true op = true ∧ modRM mod reg rm :: bs = memBytes reg op ++ rest := by
  unfold readMem16 at h
  split_ifs at h with habs <;> obtain ⟨⟨d, bs'⟩, hr, he⟩ := Option.map_eq_some_iff.1 h <;> cases he
  · obtain ⟨rfl, rfl⟩ := habs
    exact ⟨rfl, by rw [eq_bytes16_of_read16 hr]; rfl⟩
  · obtain ⟨rfl, rfl⟩ := eq_bytes_of_readDisp16 hmod hr
    refine ⟨?_, rfl⟩
    have hb : rm ≠ 6#3 ∨ d ≠ .none := by
      rw [← not_and_or]
      rintro ⟨h6, rfl⟩
      exact habs ⟨rfl, h6⟩
    simpa [wfMem] using hb

/-- An r/m operand that is read is well formed, and read from its own bytes. -/
theorem eq_rmBytes_of_readRM {a16 : Bool} {bs rest : List Byte} {reg : BitVec 3} {rm : RM}
    (h : readRM a16 bs = some (reg, rm, rest)) : wfRM a16 rm = true ∧ bs = rmBytes reg rm ++ rest := by
  cases bs with
  | nil => cases h
  | cons b bs =>
    have hb := modRM_fields b
    rw [readRM] at h
    split_ifs at h with hmod h16
    · cases h
      exact ⟨rfl, by rw [rmBytes, ← hmod, hb]; rfl⟩
    · obtain ⟨⟨op, bs'⟩, hr, he⟩ := Option.map_eq_some_iff.1 h
      cases he
      have hop := eq_memBytes_of_readMem16 (b.extractLsb' 3 3) hmod hr
      rw [hb] at hop
      exact h16 ▸ hop
    · obtain ⟨⟨op, bs'⟩, hr, he⟩ := Option.map_eq_some_iff.1 h
      cases he
      have hop := eq_memBytes_of_readMem (b.extractLsb' 3 3) hmod hr
      rw [hb] at hop
      exact Bool.eq_false_iff.2 h16 ▸ hop

/-! ### The rows (R109, R111) -/

/-- The fields of a key that every row fixes, besides V (R109). -/
def opcodeFields (key : BitVec 24) : BitVec 2 × BitVec 5 × Byte :=
  (key.extractLsb' 21 2, key.extractLsb' 16 5, key.extractLsb' 0 8)

theorem opcodeFields_rowKey (v : Bool) (pp : BitVec 2) (map : BitVec 5) (w l : Bool) (vvvv : BitVec 4) (rf : Bool)
    (opc : Byte) : opcodeFields (rowKey v pp map w l vvvv rf opc) = (pp, map, opc) := by
  simp (disch := omega) only [opcodeFields, rowKey, BitVec.extractLsb'_append_eq_right,
    BitVec.extractLsb'_append_eq_of_le, Nat.reduceSub]

/-- A mask that holds all the fields keeps them. -/
theorem opcodeFields_and {mask : BitVec 24} (key : BitVec 24)
    (h : opcodeFields mask = (BitVec.allOnes 2, BitVec.allOnes 5, BitVec.allOnes 8)) :
    opcodeFields (key &&& mask) = opcodeFields key := by
  obtain ⟨hpp, hmap, hopc⟩ : _ ∧ _ ∧ _ := by simpa only [opcodeFields, Prod.mk.injEq] using h
  simp only [opcodeFields, BitVec.extractLsb'_and, hpp, hmap, hopc, BitVec.and_allOnes]

/-- A row's pattern holds the prefix, map and opcode of every key it matches. -/
theorem opcodeFields_of_match {v : Bool} {pp : BitVec 2} {map : BitVec 5} {w l : Bool} {vvvv : BitVec 4} {rf : Bool}
    {opc : Byte} {mask pattern : BitVec 24}
    (hmask : opcodeFields mask = (BitVec.allOnes 2, BitVec.allOnes 5, BitVec.allOnes 8))
    (h : rowKey v pp map w l vvvv rf opc &&& mask = pattern) : opcodeFields pattern = (pp, map, opc) := by
  rw [← h, opcodeFields_and _ hmask, opcodeFields_rowKey]

theorem legacyRows_opcodeFields : ∀ row ∈ legacyRows,
    opcodeFields row.mask = (BitVec.allOnes 2, BitVec.allOnes 5, BitVec.allOnes 8) := by decide
theorem vexRows_opcodeFields : ∀ row ∈ vexRows,
    opcodeFields row.mask = (BitVec.allOnes 2, BitVec.allOnes 5, BitVec.allOnes 8) := by decide

theorem getLsbD_w_rowKey (v : Bool) (pp : BitVec 2) (map : BitVec 5) (w l : Bool) (vvvv : BitVec 4) (rf : Bool)
    (opc : Byte) : (rowKey v pp map w l vvvv rf opc).getLsbD 15 = w := by
  simp only [rowKey, BitVec.getLsbD_append]
  simp

theorem getLsbD_l_rowKey (v : Bool) (pp : BitVec 2) (map : BitVec 5) (w l : Bool) (vvvv : BitVec 4) (rf : Bool)
    (opc : Byte) : (rowKey v pp map w l vvvv rf opc).getLsbD 14 = l := by
  simp only [rowKey, BitVec.getLsbD_append]
  simp

/-- The SIMD prefix with a code (R97, R109). -/
def SimdPrefix.ofCode (c : BitVec 2) : SimdPrefix :=
  if c = 0 then .none else if c = 1 then .p66 else if c = 2 then .pF3 else .pF2

/-- The opcode map with a code, where the code is one of the table's (R97, R109). -/
def OpMap.ofCode (c : BitVec 5) : OpMap :=
  if c = 1 then .m0F else .m0F38

@[simp] theorem SimdPrefix.ofCode_code (pp : SimdPrefix) : SimdPrefix.ofCode pp.code = pp := by cases pp <;> rfl
@[simp] theorem SimdPrefix.code_ofCode (c : BitVec 2) : (SimdPrefix.ofCode c).code = c := by revert c; decide
@[simp] theorem OpMap.ofCode_code (map : OpMap) : OpMap.ofCode map.code = map := by cases map <;> rfl

/-- Prefix, map and opcode of a row, as its pattern holds them. -/
def opcodeOf (pattern : BitVec 24) : SimdPrefix × OpMap × Byte :=
  (.ofCode (opcodeFields pattern).1, .ofCode (opcodeFields pattern).2.1, (opcodeFields pattern).2.2)

/-- What a legacy row makes of an encoding has that encoding, under the row's prefix, map and opcode, and is well
formed where the encoding is and has the REX.W that the row fixes. -/
def LegacyRow.Faithful (row : LegacyRow) : Prop :=
  ∀ (e : Legacy RM) (i : Instr), row.make e = some i →
    encode i = legacyBytes (opcodeOf row.pattern).2.1 (opcodeOf row.pattern).2.2 e ∧
      ∀ m, wfLegacy m (opcodeOf row.pattern).1 e = true →
        (row.mask.getLsbD 15 = true → rexW e.rex = row.pattern.getLsbD 15) → i.wf m = true

/-- A row whose instruction `c` has, of the encodings that `view` takes, the encoding itself. -/
theorem LegacyRow.Faithful.of {α : Type} {row : LegacyRow} {view : Legacy RM → Option (Legacy α)}
    {back : Legacy α → Legacy RM} (c : Legacy α → Instr) (hview : ∀ {e e'}, view e = some e' → e = back e')
    (hmake : ∀ e, row.make e = (view e).map c := by intro; rfl)
    (hbytes : ∀ e, encode (c e) = legacyBytes (opcodeOf row.pattern).2.1 (opcodeOf row.pattern).2.2 (back e) := by
      intro; rfl)
    (hwf : ∀ {m e}, wfLegacy m (opcodeOf row.pattern).1 (back e) = true →
      (row.mask.getLsbD 15 = true → rexW (back e).rex = row.pattern.getLsbD 15) → (c e).wf m = true := by
        exact fun h _ => h) :
    row.Faithful := by
  intro e i hi
  obtain ⟨e', he, rfl⟩ := Option.map_eq_some_iff.1 (hmake e ▸ hi)
  rw [hview he]
  exact ⟨hbytes e', fun _ => hwf⟩

/-- An encoding seen as a register form is that form (R85). -/
theorem Legacy.of_asReg {e : Legacy RM} {e' : Legacy RegField} (h : e.asReg = some e') : e = e'.map RM.reg := by
  rcases e with ⟨ps, rex, reg, n | op⟩ <;> cases h
  rfl

/-- An encoding seen as a memory form is that form (R85). -/
theorem Legacy.of_asMem {e : Legacy RM} {e' : Legacy MemOp} (h : e.asMem = some e') : e = e'.map RM.mem := by
  rcases e with ⟨ps, rex, reg, n | op⟩ <;> cases h
  rfl

/-- Each legacy row makes an instruction that has the encoding (R111). -/
theorem legacyRows_faithful : ∀ row ∈ legacyRows, row.Faithful := by
  simp only [legacyRows, List.cons_append, List.nil_append, List.forall_mem_cons]
  exact ⟨
    .of .movddup Option.some.inj, .of .movdqaLoad Option.some.inj, .of .movdqaStore Option.some.inj,
    .of .movdquLoad Option.some.inj, .of .movdquStore Option.some.inj, .of .movdq2q Legacy.of_asReg,
    .of .movhlps Legacy.of_asReg, .of .movhpdLoad Legacy.of_asMem, .of .movhpdStore Legacy.of_asMem,
    .of .movhpsLoad Legacy.of_asMem, .of .movhpsStore Legacy.of_asMem, .of .movlhps Legacy.of_asReg,
    .of .movlpdLoad Legacy.of_asMem, .of .movlpdStore Legacy.of_asMem, .of .movlpsLoad Legacy.of_asMem,
    .of .movlpsStore Legacy.of_asMem, .of .movmskpd Legacy.of_asReg, .of .movmskps Legacy.of_asReg,
    .of .movntdqa Legacy.of_asMem, .of .movntdq Legacy.of_asMem,
    .of .movnti32 Legacy.of_asMem (hwf := fun h hw => Bool.and_eq_true_iff.2 ⟨h, congrArg not (hw rfl)⟩),
    .of .movnti64 Legacy.of_asMem (hwf := fun h hw => Bool.and_eq_true_iff.2 ⟨h, hw rfl⟩),
    .of .movntpd Legacy.of_asMem, .of .movntps Legacy.of_asMem, .of .movntq Legacy.of_asMem,
    .of .movqMmLoad Option.some.inj, .of .movqMmStore Option.some.inj, .of .movqXmmLoad Option.some.inj,
    .of .movqXmmStore Option.some.inj,
    fun _ h => absurd h List.not_mem_nil⟩

/-- What a VEX row makes of an encoding has that encoding, under the row's prefix, map, VEX.L and opcode, with vvvv
naming register `v`, which is 0 in a row that is not NDS, and is well formed where the encoding is. -/
def VexRow.Faithful (row : VexRow) : Prop :=
  ∀ (v : RegNum) (e : Vex RM) (i : Instr), (row.nds = true ∨ v = 0) → row.make v e = some i →
    encode i = vexBytes (opcodeOf row.pattern).1 (opcodeOf row.pattern).2.1 (row.pattern.getLsbD 14) v
        (opcodeOf row.pattern).2.2 e ∧
      ∀ m, wfVex m (opcodeOf row.pattern).2.1 v e = true → i.wf m = true

/-- An NDS row whose instruction `c` has, of the encodings that `view` takes, the encoding itself. -/
theorem VexRow.Faithful.ofNds {α : Type} {row : VexRow} {view : Vex RM → Option (Vex α)}
    {back : Vex α → Vex RM} (c : RegNum → Vex α → Instr) (hview : ∀ {e e'}, view e = some e' → e = back e')
    (hmake : ∀ v e, row.make v e = (view e).map (c v) := by intros; rfl)
    (hbytes : ∀ v e, encode (c v e) = vexBytes (opcodeOf row.pattern).1 (opcodeOf row.pattern).2.1
      (row.pattern.getLsbD 14) v (opcodeOf row.pattern).2.2 (back e) := by intros; rfl)
    (hwf : ∀ m v e, (c v e).wf m = wfVex m (opcodeOf row.pattern).2.1 v (back e) := by intros; rfl) :
    row.Faithful := by
  intro v e i _ hi
  obtain ⟨e', he, rfl⟩ := Option.map_eq_some_iff.1 (hmake v e ▸ hi)
  rw [hview he]
  exact ⟨hbytes v e', fun m h => (hwf m v e').trans h⟩

/-- The same for a row that is not NDS. -/
theorem VexRow.Faithful.of {α : Type} {row : VexRow} {view : Vex RM → Option (Vex α)}
    {back : Vex α → Vex RM} (c : Vex α → Instr) (hview : ∀ {e e'}, view e = some e' → e = back e')
    (hnds : row.nds = false := by rfl)
    (hmake : ∀ v e, row.make v e = (view e).map c := by intros; rfl)
    (hbytes : ∀ e, encode (c e) = vexBytes (opcodeOf row.pattern).1 (opcodeOf row.pattern).2.1
      (row.pattern.getLsbD 14) 0 (opcodeOf row.pattern).2.2 (back e) := by intros; rfl)
    (hwf : ∀ m e, (c e).wf m = wfVex m (opcodeOf row.pattern).2.1 0 (back e) := by intros; rfl) :
    row.Faithful := by
  intro v e i hv hi
  obtain rfl : v = 0 := by simpa [hnds] using hv
  obtain ⟨e', he, rfl⟩ := Option.map_eq_some_iff.1 (hmake 0 e ▸ hi)
  rw [hview he]
  exact ⟨hbytes e', fun m h => (hwf m e').trans h⟩

/-- An encoding seen as a register form is that form (R85). -/
theorem Vex.of_asReg {e : Vex RM} {e' : Vex RegField} (h : e.asReg = some e') : e = e'.map RM.reg := by
  rcases e with ⟨ps, form, reg, n | op⟩ <;> cases h
  rfl

/-- An encoding seen as a memory form is that form (R85). -/
theorem Vex.of_asMem {e : Vex RM} {e' : Vex MemOp} (h : e.asMem = some e') : e = e'.map RM.mem := by
  rcases e with ⟨ps, form, reg, n | op⟩ <;> cases h
  rfl

/-- Each VEX row makes an instruction that has the encoding (R111). -/
theorem vexRows_faithful : ∀ row ∈ vexRows, row.Faithful := by
  simp only [vexRows, List.cons_append, List.nil_append, List.forall_mem_cons]
  exact ⟨
    .of .vmovddupX Option.some.inj, .of .vmovddupY Option.some.inj, .of .vmovdqaXLoad Option.some.inj,
    .of .vmovdqaXStore Option.some.inj, .of .vmovdqaYLoad Option.some.inj, .of .vmovdqaYStore Option.some.inj,
    .of .vmovdquXLoad Option.some.inj, .of .vmovdquXStore Option.some.inj, .of .vmovdquYLoad Option.some.inj,
    .of .vmovdquYStore Option.some.inj, .ofNds .vmovhlps Vex.of_asReg, .ofNds .vmovhpdLoad Vex.of_asMem,
    .of .vmovhpdStore Vex.of_asMem, .ofNds .vmovhpsLoad Vex.of_asMem, .of .vmovhpsStore Vex.of_asMem,
    .ofNds .vmovlhps Vex.of_asReg, .ofNds .vmovlpdLoad Vex.of_asMem, .of .vmovlpdStore Vex.of_asMem,
    .ofNds .vmovlpsLoad Vex.of_asMem, .of .vmovlpsStore Vex.of_asMem, .of .vmovmskpdX Vex.of_asReg,
    .of .vmovmskpdY Vex.of_asReg, .of .vmovmskpsX Vex.of_asReg, .of .vmovmskpsY Vex.of_asReg,
    .of .vmovntdqaX Vex.of_asMem, .of .vmovntdqaY Vex.of_asMem, .of .vmovntdqX Vex.of_asMem,
    .of .vmovntdqY Vex.of_asMem, .of .vmovntpdX Vex.of_asMem, .of .vmovntpdY Vex.of_asMem,
    .of .vmovntpsX Vex.of_asMem, .of .vmovntpsY Vex.of_asMem, .of .vmovqReg Vex.of_asReg,
    .of .vmovqLoad Vex.of_asMem, .of .vmovqStore Option.some.inj,
    fun _ h => absurd h List.not_mem_nil⟩

/-- The legacy row of an opcode is a row that matches its key. -/
theorem match_of_legacyRow {pp : SimdPrefix} {map : OpMap} {opc : Byte} {w rf : Bool} {row : LegacyRow}
    (h : legacyRow pp map opc w rf = some row) :
    row ∈ legacyRows ∧ rowKey false pp.code map.code w false 0xF rf opc &&& row.mask = row.pattern := by
  rw [legacyRow] at h
  exact ⟨List.mem_of_find?_eq_some h, by simpa only [beq_iff_eq] using List.find?_some h⟩

/-- The VEX row of an opcode is a row that matches its key. -/
theorem match_of_vexRow {pp : BitVec 2} {map : BitVec 5} {l rf : Bool} {opc : Byte} {row : VexRow}
    (h : vexRow pp map l rf opc = some row) :
    row ∈ vexRows ∧ rowKey true pp map false l 0xF rf opc &&& row.mask = row.pattern := by
  rw [vexRow] at h
  exact ⟨List.mem_of_find?_eq_some h, by simpa only [beq_iff_eq] using List.find?_some h⟩

/-- What the legacy row of an encoding makes has that encoding, and is well formed where it is (R111). -/
theorem encode_of_legacyInstr {pp : SimdPrefix} {map : OpMap} {opc : Byte} {e : Legacy RM} {i : Instr}
    (h : legacyInstr pp map opc e = some i) :
    encode i = legacyBytes map opc e ∧ ∀ m, wfLegacy m pp e = true → i.wf m = true := by
  obtain ⟨row, hrow, hmake⟩ := Option.bind_eq_some_iff.1 h
  obtain ⟨hmem, hkey⟩ := match_of_legacyRow hrow
  have hfields := opcodeFields_of_match (legacyRows_opcodeFields row hmem) hkey
  have hw : row.mask.getLsbD 15 = true → rexW e.rex = row.pattern.getLsbD 15 := by
    intro hmask
    rw [← hkey, BitVec.getLsbD_and, hmask, Bool.and_true, getLsbD_w_rowKey]
  obtain ⟨hbytes, hwf⟩ := legacyRows_faithful row hmem e i hmake
  simp only [opcodeOf, hfields, SimdPrefix.ofCode_code, OpMap.ofCode_code] at hbytes hwf
  exact ⟨hbytes, fun m h => hwf m h hw⟩

theorem vexRows_mask_l : ∀ row ∈ vexRows, row.mask.getLsbD 14 = true := by decide

/-- What the VEX row of an encoding makes has that encoding, and is well formed where it is (R111). -/
theorem encode_of_vexInstr {pp : SimdPrefix} {map : OpMap} {l : Bool} {v : RegNum} {opc : Byte} {e : Vex RM}
    {i : Instr} (h : vexInstr pp map l v opc e = some i) :
    encode i = vexBytes pp map l v opc e ∧ ∀ m, wfVex m map v e = true → i.wf m = true := by
  obtain ⟨row, hrow, hmake⟩ := Option.bind_eq_some_iff.1 h
  obtain ⟨hv, hmake⟩ : (row.nds = true ∨ v = 0) ∧ row.make v e = some i := by
    simpa [VexRow.instr] using hmake
  obtain ⟨hmem, hkey⟩ := match_of_vexRow hrow
  have hfields := opcodeFields_of_match (vexRows_opcodeFields row hmem) hkey
  have hl : row.pattern.getLsbD 14 = l := by
    rw [← hkey, BitVec.getLsbD_and, vexRows_mask_l row hmem, Bool.and_true, getLsbD_l_rowKey]
  have hrow := vexRows_faithful row hmem v e i hv hmake
  simpa only [opcodeOf, hfields, hl, SimdPrefix.ofCode_code, OpMap.ofCode_code] using hrow

/-! ### Legacy instructions (R80, R110) -/

/-- What an instruction that is read after the opcode comes from: ModRM and what follows it, and the row. -/
theorem decodeLegacyRM_eq_instr {m : Mode} {ps : List Prefix} {rex : Option Rex} {pp : SimdPrefix} {map : OpMap}
    {opc : Byte} {bs : List Byte} {i : Instr} (h : decodeLegacyRM m ps rex pp map opc bs = .instr i) :
    ∃ reg rm rest, readRM (is16 m ps) bs = some (reg, rm, rest) ∧
      legacyInstr pp map opc ⟨ps, rex, reg, rm⟩ = some i := by
  unfold decodeLegacyRM at h
  split at h
  · cases h
  rename_i reg rm rest hread
  refine ⟨reg, rm, rest, hread, Option.bind_eq_some_iff.2 ?_⟩
  split at h
  · cases h
  rename_i row hrow
  split at h <;> cases h
  exact ⟨row, hrow, by assumption⟩

/-- The prefixes before an opcode that is read as an instruction are those of a legacy encoding. -/
theorem decodeLegacyOp_eq_instr {m : Mode} {items : List PrefixItem} {map : OpMap} {opc : Byte} {bs : List Byte}
    {i : Instr} (h : decodeLegacyOp m items map opc bs = .instr i) :
    ∃ ps rex pp, items = prefixItems ps rex ∧ wfPrefixes pp ps = true ∧
      (legacyAgrees anyPrefixMask (rowKey false 0 map.code false false 0xF false opc) = true ∧
        legacyAgrees opcodeMask (rowKey false pp.code map.code false false 0xF false opc) = true) ∧
        decodeLegacyRM m ps rex pp map opc bs = .instr i := by
  unfold decodeLegacyOp at h
  split_ifs at h with hany
  split at h
  · cases h
  rename_i ps rex hsplit
  split at h
  · cases h
  rename_i pp hpp
  split_ifs at h with hopc
  exact ⟨ps, rex, pp, splitItems_eq_some.1 hsplit, simdOf_eq_some.1 hpp, ⟨hany, hopc⟩, h⟩

/-- The escape bytes before an opcode that is read are those of its map, and it is no escape byte itself (R83). -/
theorem decodeLegacy_eq_instr {m : Mode} {items : List PrefixItem} {bs : List Byte} {i : Instr}
    (h : decodeLegacy m items bs = .instr i) :
    ∃ (map : OpMap) (opc : Byte) (rest : List Byte), 0x0F :: bs = map.escape ++ opc :: rest ∧
      (map = .m0F38 ∨ opc ≠ 0x38 ∧ opc ≠ 0x3A) ∧ decodeLegacyOp m items map opc rest = .instr i := by
  unfold decodeLegacy at h
  split at h
  · cases h
  rename_i b rest
  split_ifs at h with h38 h3A
  · subst h38
    cases rest with
    | nil => cases h
    | cons opc rest => exact ⟨.m0F38, opc, rest, rfl, .inl rfl, h⟩
  · exact ⟨.m0F, b, rest, rfl, .inr ⟨h38, h3A⟩, h⟩

/-- A legacy opcode is no escape byte, and some row has it, both under some prefix and under this one (R83, R110). -/
theorem isLegacyOpcode_iff {pp : SimdPrefix} {map : OpMap} {opc : Byte} :
    isLegacyOpcode pp map opc = true ↔
      (map = .m0F38 ∨ opc ≠ 0x38 ∧ opc ≠ 0x3A) ∧
        legacyAgrees anyPrefixMask (rowKey false 0 map.code false false 0xF false opc) = true ∧
          legacyAgrees opcodeMask (rowKey false pp.code map.code false false 0xF false opc) = true := by
  simp only [isLegacyOpcode, Bool.and_eq_true, Bool.or_eq_true, decide_eq_true_eq, and_assoc]

/-- A legacy instruction that is read is what the rows make of a well-formed encoding, whose bytes they are. -/
theorem legacy_of_decodeLegacy {m : Mode} {bs bs' : List Byte} {items : List PrefixItem} {i : Instr}
    (hread : readPrefixes m bs = (items, 0x0F :: bs')) (h : decodeLegacy m items bs' = .instr i) :
    ∃ pp map opc e rest, wfLegacy m pp e = true ∧ isLegacyOpcode pp map opc = true ∧
      legacyInstr pp map opc e = some i ∧ bs = legacyBytes map opc e ++ rest := by
  obtain ⟨hbs, hitems⟩ := readPrefixes_eq hread
  obtain ⟨map, opc, bs₂, hopc, hesc, h⟩ := decodeLegacy_eq_instr h
  obtain ⟨ps, rex, pp, rfl, hps, hagrees, h⟩ := decodeLegacyOp_eq_instr h
  obtain ⟨reg, rm, rest, hrm, hi⟩ := decodeLegacyRM_eq_instr h
  obtain ⟨hwfRM, rfl⟩ := eq_rmBytes_of_readRM hrm
  have hrex : m = .mode64 ∨ rex = none := by
    rcases rex with _ | r
    · exact .inr rfl
    cases m with
    | mode64 => exact .inl rfl
    | mode32 => exact absurd (hitems (.rex r) (by simp [prefixItems])) (readItem_mode32_ne_rex _ r)
  refine ⟨pp, map, opc, ⟨ps, rex, reg, rm⟩, rest, wfLegacy_iff.2 ⟨hps, hrex, hwfRM⟩,
    isLegacyOpcode_iff.2 ⟨hesc, hagrees⟩, hi, ?_⟩
  rw [hbs, hopc, map_byte_prefixItems, legacyBytes]
  simp only [List.append_assoc, List.cons_append]

/-! ### VEX instructions (R91 to R98, R110) -/

/-- The bytes of a VEX prefix are made of the fields that are read from them (R92, R93). -/
theorem vexPrefixBytes_of_readVex {b0 : Byte} {bs rest : List Byte} {v : VexPrefix} {map : OpMap}
    (hb : b0 = 0xC4 ∨ b0 = 0xC5) (h : readVex b0 bs = some (v, rest)) (hmap : v.mmmmm = map.code) :
    b0 :: bs = vexPrefixBytes v.form map v.vvvv v.l v.pp ++ rest := by
  have hlow : ∀ b : Byte,
      BitVec.ofBool (b.getLsbD 7) ++ b.extractLsb' 3 4 ++ BitVec.ofBool (b.getLsbD 2) ++ b.extractLsb' 0 2 = b := by
    decide
  have hmid : ∀ b : Byte, BitVec.ofBool (b.getLsbD 7) ++ BitVec.ofBool (b.getLsbD 6) ++ BitVec.ofBool (b.getLsbD 5) ++
      b.extractLsb' 0 5 = b := by decide
  unfold readVex at h
  split_ifs at h with h5
  · subst h5
    split at h <;> cases h
    rename_i b1
    simp only [readVex2, vexPrefixBytes, Bool.not_not, hlow]
    rfl
  · obtain rfl : b0 = 0xC4 := hb.resolve_right h5
    split at h <;> cases h
    rename_i b1 b2
    simp only [readVex3] at hmap
    simp only [readVex3, vexPrefixBytes, Bool.not_not, ← hmap, hlow, hmid]
    rfl

/-- A vvvv with its top bit set names one of the registers 0 to 7 (R95, R98 (c)). -/
theorem toNat_not_vvvv {vvvv : BitVec 4} (h : vvvv.getLsbD 3 = true) : (~~~vvvv).toNat ≤ 7 := by
  revert vvvv; decide

/-- A VEX prefix that is read and not refused is well formed in the mode (R93, R98 (c)). -/
theorem wfVexForm_of_readVex {m : Mode} {b0 : Byte} {bs rest : List Byte} {v : VexPrefix} {map : OpMap}
    (hs : startsVex m bs = some true) (h : readVex b0 bs = some (v, rest)) (hmap : v.mmmmm = map.code)
    (hmode : ¬(m = .mode32 ∧ (v.form.b = true ∨ v.vvvv.getLsbD 3 = false))) :
    wfVexForm m map v.form = true ∧ (m = .mode64 ∨ (~~~v.vvvv).toNat ≤ 7) := by
  have htop : ∀ b : Byte, (b.extractLsb' 6 2 == 3) = true → b.getLsbD 7 = true ∧ b.getLsbD 6 = true := by decide
  have htwo : 1 = map.code → map = .m0F := by cases map <;> decide
  constructor
  · unfold readVex at h
    split_ifs at h with h5 <;> split at h <;> cases h <;> cases m
    · simpa [wfVexForm, readVex2] using htwo hmap
    · obtain ⟨h7, -⟩ := htop _ (Option.some.inj hs)
      simpa [wfVexForm, readVex2, ← BitVec.getLsbD_eq_getElem, h7] using htwo hmap
    · rfl
    · obtain ⟨h7, h6⟩ := htop _ (Option.some.inj hs)
      have h5 : (readVex3 _ _).form.b = false := Bool.eq_false_iff.2 fun hb => hmode ⟨rfl, .inl hb⟩
      simpa [wfVexForm, readVex3, VexForm.b, ← BitVec.getLsbD_eq_getElem, h7, h6] using h5
  · cases m with
    | mode64 => exact .inl rfl
    | mode32 => exact .inr (toNat_not_vvvv (by simpa using fun hv => hmode ⟨rfl, .inr hv⟩))

/-- What an instruction that is read after a VEX prefix comes from: the prefixes and a map of the table. -/
theorem decodeVex_eq_instr {m : Mode} {items : List PrefixItem} {v : VexPrefix} {bs : List Byte} {i : Instr}
    (h : decodeVex m items v bs = .instr i) :
    ¬(m = .mode32 ∧ (v.form.b = true ∨ v.vvvv.getLsbD 3 = false)) ∧
      ∃ opc rest pp, bs = opc :: rest ∧ wfPrefixes pp (legacyOf items) = true ∧
        decodeVexRM m (legacyOf items) v opc rest = .instr i := by
  unfold decodeVex at h
  split_ifs at h with hmode
  refine ⟨hmode, ?_⟩
  split at h
  · cases h
  rename_i opc rest
  split_ifs at h
  split at h
  · cases h
  rename_i pp hpp
  exact ⟨opc, rest, pp, rfl, simdOf_eq_some.1 hpp, h⟩

/-- The maps of the table's VEX rows. -/
theorem vexRows_map : ∀ row ∈ vexRows, ∃ map : OpMap, (opcodeFields row.pattern).2.1 = map.code := by
  have h : ∀ row ∈ vexRows, (OpMap.ofCode (opcodeFields row.pattern).2.1).code = (opcodeFields row.pattern).2.1 := by
    decide
  exact fun row hrow => ⟨_, (h row hrow).symm⟩

/-- What an instruction that is read after a VEX opcode comes from: ModRM and what follows it, and the row. -/
theorem decodeVexRM_eq_instr {m : Mode} {ps : List Prefix} {v : VexPrefix} {opc : Byte} {bs : List Byte} {i : Instr}
    (h : decodeVexRM m ps v opc bs = .instr i) :
    ∃ map reg rm rest, v.mmmmm = OpMap.code map ∧ readRM (is16 m ps) bs = some (reg, rm, rest) ∧
      vexInstr (.ofCode v.pp) map v.l (~~~v.vvvv) opc ⟨ps, v.form, reg, rm⟩ = some i := by
  unfold decodeVexRM at h
  split at h
  · cases h
  rename_i reg rm rest hread
  rw [find?_vexRows] at h
  split at h
  · split at h <;> cases h
  rename_i row hrow
  obtain ⟨hmem, hkey⟩ := match_of_vexRow hrow
  obtain ⟨map, hmap⟩ := vexRows_map row hmem
  rw [opcodeFields_of_match (vexRows_opcodeFields row hmem) hkey] at hmap
  refine ⟨map, reg, rm, rest, hmap, hread, Option.bind_eq_some_iff.2 ⟨row, ?_, ?_⟩⟩
  · rw [SimdPrefix.code_ofCode, ← hmap]
    exact hrow
  · split_ifs at h with hv
    have hnds : ∀ (nds : Bool) (vvvv : BitVec 4), ¬(!nds && vvvv != 0xF) = true → (nds || ~~~vvvv == 0) = true := by
      decide
    rw [VexRow.instr, if_pos (hnds _ _ hv)]
    split at h <;> cases h
    assumption

/-- The legacy prefixes that may stand before a VEX prefix. -/
theorem items_of_not_forbidsVex {items : List PrefixItem} (h : items.any PrefixItem.forbidsVex = false) :
    items = (legacyOf items).map .legacy ∧ (legacyOf items).filter Prefix.isSimd = [] := by
  induction items with
  | nil => exact ⟨rfl, rfl⟩
  | cons it items ih =>
    obtain ⟨hit, hrest⟩ := Bool.or_eq_false_iff.1 (List.any_cons ▸ h)
    obtain ⟨hitems, hsimd⟩ := ih hrest
    cases it with
    | rex r => cases hit
    | legacy p =>
      obtain ⟨hp, -⟩ := Bool.or_eq_false_iff.1 hit
      refine ⟨congrArg _ hitems, ?_⟩
      change (p :: legacyOf items).filter Prefix.isSimd = []
      rw [List.filter_cons_of_neg (by simp [hp]), hsimd]

/-- A VEX instruction that is read is what the rows make of a well-formed encoding, whose bytes they are. -/
theorem vex_of_decodeVex {m : Mode} {bs bs' bs₂ : List Byte} {items : List PrefixItem} {b0 : Byte} {vp : VexPrefix}
    {i : Instr} (hread : readPrefixes m bs = (items, b0 :: bs')) (hb : b0 = 0xC4 ∨ b0 = 0xC5)
    (hs : startsVex m bs' = some true) (hf : items.any PrefixItem.forbidsVex = false)
    (hv : readVex b0 bs' = some (vp, bs₂)) (h : decodeVex m items vp bs₂ = .instr i) :
    ∃ pp map l v opc e rest, wfVex m map v e = true ∧ vexInstr pp map l v opc e = some i ∧
      bs = vexBytes pp map l v opc e ++ rest := by
  obtain ⟨hbs, -⟩ := readPrefixes_eq hread
  obtain ⟨hmode, opc, bs₃, pp, rfl, hps, h⟩ := decodeVex_eq_instr h
  obtain ⟨map, reg, rm, rest, hmap, hrm, hi⟩ := decodeVexRM_eq_instr h
  obtain ⟨hwfRM, rfl⟩ := eq_rmBytes_of_readRM hrm
  obtain ⟨hform, hvvvv⟩ := wfVexForm_of_readVex hs hv hmap hmode
  obtain ⟨hitems, hsimd⟩ := items_of_not_forbidsVex hf
  obtain ⟨hseg, haddr, -, hlock⟩ := wfPrefixes_iff.1 hps
  have hps : wfPrefixes .none (legacyOf items) = true := wfPrefixes_iff.2 ⟨hseg, haddr, hsimd, hlock⟩
  refine ⟨_, map, vp.l, _, opc, _, rest, wfVex_iff.2 ⟨hps, hform, hvvvv, hwfRM⟩, hi, ?_⟩
  rw [hbs, vexBytes, vexPrefixBytes_of_readVex hb hv hmap, SimdPrefix.code_ofCode, BitVec.not_not, hitems]
  simp [PrefixItem.byte, Function.comp_def, legacyOf]

/-! ### Every instruction -/

/-- An instruction that is read is what the rows make of a well-formed legacy or VEX encoding, whose bytes they are
(R110). -/
theorem decode_eq_instr {m : Mode} {bs : List Byte} {i : Instr} (h : decode m bs = .instr i) :
    (∃ pp map opc e rest, wfLegacy m pp e = true ∧ isLegacyOpcode pp map opc = true ∧
      legacyInstr pp map opc e = some i ∧ bs = legacyBytes map opc e ++ rest) ∨
    ∃ pp map l v opc e rest, wfVex m map v e = true ∧ vexInstr pp map l v opc e = some i ∧
      bs = vexBytes pp map l v opc e ++ rest := by
  unfold decode at h
  split at h
  · cases h
  rename_i b0 rest hrest
  have hread : readPrefixes m bs = ((readPrefixes m bs).1, b0 :: rest) := Prod.ext rfl hrest
  by_cases hb : b0 = 0xC4 ∨ b0 = 0xC5
  · rw [if_pos hb] at h
    split at h
    · cases h
    · cases h
    rename_i hs
    split_ifs at h with hf
    split at h
    · cases h
    rename_i v rest' hv
    exact .inr (vex_of_decodeVex hread hb hs (Bool.eq_false_iff.2 hf) hv h)
  · rw [if_neg hb] at h
    split_ifs at h with h0F
    subst h0F
    exact .inl (legacy_of_decodeLegacy hread h)

/-- Settles O2: what the rows make of the encoding that was read has that encoding. -/
theorem encodeOfDecode : Obligations.EncodeOfDecode := by
  intro m bs i h
  rcases decode_eq_instr h with ⟨pp, map, opc, e, rest, hwf, -, hi, rfl⟩ | ⟨pp, map, l, v, opc, e, rest, hwf, hi, rfl⟩
  · obtain ⟨hbytes, hwfi⟩ := encode_of_legacyInstr hi
    exact ⟨hwfi m hwf, rest, by rw [hbytes]⟩
  · obtain ⟨hbytes, hwfi⟩ := encode_of_vexInstr hi
    exact ⟨hwfi m hwf, rest, by rw [hbytes]⟩

end Sys2Proof
end

section
/-! The bytes of an encoding (R80, R89), and keys against the table (R109, R111). -/

namespace Sys2Proof

/-! ### Length (R89) -/

/-- Every prefix is of one of the four groups (R81). -/
theorem length_prefixes (ps : List Prefix) :
    ps.length = (ps.filter Prefix.isSeg).length + ps.count .addrSize + (ps.filter Prefix.isSimd).length +
      ps.count .lock := by
  induction ps with
  | nil => rfl
  | cons p ps ih =>
    cases p <;> simp [List.filter_cons, Prefix.isSeg, Prefix.isSimd, ih] <;> omega

/-- A well-formed prefix set holds the mandatory prefix, and at most a segment override and a 67 (R117). -/
theorem length_le_of_wfPrefixes {pp : SimdPrefix} {ps : List Prefix} (h : wfPrefixes pp ps = true) :
    ps.length ≤ 2 + pp.required.length := by
  obtain ⟨hseg, haddr, hsimd, hlock⟩ := wfPrefixes_iff.1 h
  rw [length_prefixes, hsimd, List.count_eq_zero_of_not_mem hlock]
  omega

theorem length_required_le (pp : SimdPrefix) : pp.required.length ≤ 1 := by cases pp <;> decide

theorem length_dispBytes_le (d : Disp) : d.bytes.length ≤ 4 := by cases d <;> simp [Disp.bytes, bytes32]
theorem length_disp16Bytes_le (d : Disp16) : d.bytes.length ≤ 2 := by cases d <;> simp [Disp16.bytes, bytes16]

/-- ModRM alone is one byte; with SIB and a disp32 it is six (R85 to R87). -/
theorem length_rmBytes (reg : BitVec 3) (rm : RM) :
    1 ≤ (rmBytes reg rm).length ∧ (rmBytes reg rm).length ≤ 6 := by
  rcases rm with n | op
  · simp [rmBytes]
  cases op with
  | base rm d | sib sc ix bs d =>
    have h := length_dispBytes_le d
    simp only [rmBytes, memBytes, List.length_cons]
    omega
  | base16 rm d =>
    have h := length_disp16Bytes_le d
    simp only [rmBytes, memBytes, List.length_cons]
    omega
  | sibNoBase | disp32 | disp16 => simp [rmBytes, memBytes, bytes32, bytes16]

theorem legacyLen_bounds {m : Mode} {pp : SimdPrefix} {map : OpMap} {e : Legacy RM} (h : wfLegacy m pp e = true) :
    3 ≤ legacyLen map e ∧ legacyLen map e ≤ 13 := by
  obtain ⟨hps, -, -⟩ := wfLegacy_iff.1 h
  have hprefixes := length_le_of_wfPrefixes hps
  have hrequired := length_required_le pp
  have hrex : e.rex.toList.length ≤ 1 := by cases e.rex <;> simp
  have hescape : 1 ≤ map.escape.length ∧ map.escape.length ≤ 2 := by cases map <;> decide
  have hrm := length_rmBytes e.reg e.rm
  unfold legacyLen
  omega

theorem vexLen_bounds {m : Mode} {map : OpMap} {v : RegNum} {e : Vex RM} (h : wfVex m map v e = true) :
    3 ≤ vexLen e ∧ vexLen e ≤ 13 := by
  obtain ⟨hps, -, -, -⟩ := wfVex_iff.1 h
  have hprefixes : e.prefixes.length ≤ 2 := length_le_of_wfPrefixes hps
  have hrm := length_rmBytes e.reg e.rm
  unfold vexLen
  split <;> omega

/-- A well-formed instruction has a well-formed legacy or VEX encoding, of an opcode of the table (R80, R111). -/
theorem encode_cases {m : Mode} {i : Instr} (h : i.wf m = true) :
    (∃ pp map opc e, wfLegacy m pp e = true ∧ isLegacyOpcode pp map opc = true ∧ encode i = legacyBytes map opc e) ∨
      ∃ pp map l v opc e, wfVex m map v e = true ∧ encode i = vexBytes pp map l v opc e := by
  rcases decode_eq_instr (decode_encode [] h) with
    ⟨pp, map, opc, e, _, hwf, hopc, hi, -⟩ | ⟨pp, map, l, v, opc, e, _, hwf, hi, -⟩
  · exact .inl ⟨pp, map, opc, e, hwf, hopc, (encode_of_legacyInstr hi).1⟩
  · exact .inr ⟨pp, map, l, v, opc, e, hwf, (encode_of_vexInstr hi).1⟩

/-- Settles O3: the prefixes, REX, the escape bytes, the opcode, and ModRM with what follows it, each at its longest
in MOVNTDQA xmm7, gs:[r15d + r15d*8 + disp32]. -/
theorem longestInstruction : Obligations.LongestInstruction := by
  refine ⟨fun m i h => ?_, .movntdqa
    ⟨[.seg .gs, .addrSize, .opSize], some ⟨false, false, true, true⟩, 7, .sib 3 7 7 (.d32 0)⟩, by decide, by decide⟩
  rcases encode_cases h with ⟨pp, map, opc, e, hwf, -, hbytes⟩ | ⟨pp, map, l, v, opc, e, hwf, hbytes⟩
  · rw [hbytes, length_legacyBytes]
    exact legacyLen_bounds hwf
  · rw [hbytes, length_vexBytes]
    exact vexLen_bounds hwf

/-! ### Keys (R109, R111) -/

/-- The mask and the pattern of each of the 64 rows. -/
def rowMasks : List (BitVec 24 × BitVec 24) :=
  legacyRows.map (fun row => (row.mask, row.pattern)) ++ vexRows.map fun row => (row.mask, row.pattern)

/-- Two rows differ in a bit that both masks hold. -/
theorem rowMasks_pairwise : rowMasks.Pairwise fun r r' => r.2 &&& r'.1 ≠ r'.2 &&& r.1 := by decide

/-- Patterns that differ in a bit of both masks match no key together. -/
theorem length_filter_match_le_one {rows : List (BitVec 24 × BitVec 24)}
    (h : rows.Pairwise fun r r' => r.2 &&& r'.1 ≠ r'.2 &&& r.1) (key : BitVec 24) :
    (rows.filter fun r => key &&& r.1 == r.2).length ≤ 1 := by
  have hpair := h.filter fun r => key &&& r.1 == r.2
  have hmatch : ∀ r ∈ rows.filter (fun r => key &&& r.1 == r.2), key &&& r.1 = r.2 := by
    simp +contextual [List.mem_filter]
  generalize rows.filter (fun r => key &&& r.1 == r.2) = matching at hpair hmatch
  match matching with
  | [] | [_] => simp
  | r :: r' :: _ =>
    have hne := (List.pairwise_cons.1 hpair).1 r' (by simp)
    refine absurd ?_ hne
    rw [← hmatch r (by simp), ← hmatch r' (by simp), BitVec.and_assoc, BitVec.and_assoc, BitVec.and_comm r.1]

/-- Settles O4: any two of the 64 patterns differ in a bit that both masks hold. -/
theorem rowsAreDisjoint : Obligations.RowsAreDisjoint := by
  intro key
  have h := length_filter_match_le_one rowMasks_pairwise key
  simpa only [rowMasks, List.filter_append, List.filter_map, List.length_append, List.length_map,
    Function.comp_def] using h

/-- A key that agrees with a row on the opcode fields has the row's prefix, map and opcode. -/
theorem opcodeOf_of_agrees {v : Bool} {pp : SimdPrefix} {map : OpMap} {w l : Bool} {vvvv : BitVec 4} {rf : Bool}
    {opc : Byte} {pattern : BitVec 24}
    (h : rowKey v pp.code map.code w l vvvv rf opc &&& opcodeMask = pattern &&& opcodeMask) :
    opcodeOf pattern = (pp, map, opc) := by
  have hfields : opcodeFields pattern = (pp.code, map.code, opc) := by
    rw [← opcodeFields_and (mask := opcodeMask) pattern (by decide), ← h, opcodeFields_and _ (by decide),
      opcodeFields_rowKey]
  simp only [opcodeOf, hfields, SimdPrefix.ofCode_code, OpMap.ofCode_code]

open Machine (legacyOpcodes vexOpcodes)

/-- The opcodes that a legacy row agrees with are those of the list. -/
theorem mem_legacyOpcodes {pp : SimdPrefix} {map : OpMap} {opc : Byte}
    (h : legacyAgrees opcodeMask (rowKey false pp.code map.code false false 0xF false opc) = true) :
    (pp, map, opc) ∈ legacyOpcodes := by
  have hrows : ∀ row ∈ legacyRows, opcodeOf row.pattern ∈ legacyOpcodes := by decide
  obtain ⟨row, hrow, hkey⟩ := List.any_eq_true.1 h
  exact opcodeOf_of_agrees (beq_iff_eq.1 hkey) ▸ hrows row hrow

/-- The opcodes that a VEX row agrees with are those of the list. -/
theorem mem_vexOpcodes {pp : SimdPrefix} {map : OpMap} {opc : Byte} (h : isVexOpcode pp map opc = true) :
    (pp, map, opc) ∈ vexOpcodes := by
  have hrows : ∀ row ∈ vexRows, opcodeOf row.pattern ∈ vexOpcodes := by decide
  obtain ⟨row, hrow, hkey⟩ := List.any_eq_true.1 h
  exact opcodeOf_of_agrees (beq_iff_eq.1 hkey) ▸ hrows row hrow

theorem isLegacyOpcode_of_mem {pp : SimdPrefix} {map : OpMap} {opc : Byte} (h : (pp, map, opc) ∈ legacyOpcodes) :
    isLegacyOpcode pp map opc = true := by
  have hall : ∀ x ∈ legacyOpcodes, isLegacyOpcode x.1 x.2.1 x.2.2 = true := by decide
  exact hall (pp, map, opc) h

theorem isVexOpcode_of_mem {pp : SimdPrefix} {map : OpMap} {opc : Byte} (h : (pp, map, opc) ∈ vexOpcodes) :
    isVexOpcode pp map opc = true := by
  have hall : ∀ x ∈ vexOpcodes, isVexOpcode x.1 x.2.1 x.2.2 = true := by decide
  exact hall (pp, map, opc) h

end Sys2Proof
end

section
/-! What decoding answers besides an instruction (R84, R97, R98, R113 to R118): the outcome at each point of R110, then
the encodings that are #UD and the bytes that are refused. -/

namespace Sys2Proof

/-! ### After the prefixes (R110) -/

/-- The prefixes of an instruction are read back one by one (R81, R84). -/
theorem readItem_of_mem_prefixItems {m : Mode} {ps : List Prefix} {rex : Option Rex} (hrex : m = .mode64 ∨ rex = none) :
    ∀ it ∈ prefixItems ps rex, readItem m it.byte = some it := by
  intro it hit
  rcases List.mem_append.1 hit with hit | hit
  · obtain ⟨p, -, rfl⟩ := List.mem_map.1 hit
    exact readItem_prefix m p
  · obtain ⟨r, hr, rfl⟩ := List.mem_map.1 hit
    obtain rfl : rex = some r := by simpa using hr
    obtain rfl : m = .mode64 := by simpa using hrex
    exact readItem_rex r

/-- In either mode 0F, C4 and C5 are no prefixes (R81, R84). -/
theorem readItem_opcode (m : Mode) {b : Byte} (h : b = 0x0F ∨ b = 0xC4 ∨ b = 0xC5) : readItem m b = none := by
  rcases h with rfl | rfl | rfl <;> cases m <;> rfl

section
variable {m : Mode} {items : List PrefixItem} (hit : ∀ it ∈ items, readItem m it.byte = some it)
include hit

/-- Behind the prefixes and the escape bytes of a map stands a legacy opcode (R83). -/
theorem decode_escape {map : OpMap} {opc : Byte} (rest : List Byte)
    (hesc : map = .m0F38 ∨ opc ≠ 0x38 ∧ opc ≠ 0x3A) :
    decode m (items.map PrefixItem.byte ++ (map.escape ++ opc :: rest)) = decodeLegacyOp m items map opc rest := by
  have h0F : readItem m 0x0F = none := readItem_opcode m (.inl rfl)
  cases map with
  | m0F =>
    obtain ⟨h38, h3A⟩ : opc ≠ 0x38 ∧ opc ≠ 0x3A := by simpa using hesc
    refine (decode_of_readPrefixes_0F (readPrefixes_items _ hit h0F)).trans ?_
    exact (if_neg h38).trans (if_neg h3A)
  | m0F38 => exact decode_of_readPrefixes_0F (readPrefixes_items _ hit h0F)

/-- The map 0F3A holds no row (R83). -/
theorem decode_0F3A (rest : List Byte) :
    decode m (items.map PrefixItem.byte ++ 0x0F :: 0x3A :: rest) = .refused .outsideTable :=
  decode_of_readPrefixes_0F (readPrefixes_items _ hit (readItem_opcode m (.inl rfl)))

/-- A byte that starts neither an opcode nor a VEX prefix starts no instruction in scope (R118). -/
theorem decode_otherByte {b : Byte} (rest : List Byte) (hb : readItem m b = none)
    (h : b ∉ ([0x0F, 0xC4, 0xC5] : List Byte)) :
    decode m (items.map PrefixItem.byte ++ b :: rest) = .refused .outsideTable := by
  obtain ⟨h0F, hC4, hC5⟩ : b ≠ 0x0F ∧ b ≠ 0xC4 ∧ b ≠ 0xC5 := by simpa using h
  have hread := readPrefixes_items rest hit hb
  simp only [decode, hread, if_neg h0F, if_neg (not_or.2 ⟨hC4, hC5⟩)]

/-- C4 or C5 that starts no VEX prefix is LES or LDS, outside the model (R98 (c)). -/
theorem decode_les {b0 : Byte} {bs : List Byte} (hb : b0 = 0xC4 ∨ b0 = 0xC5) (hs : startsVex m bs = some false) :
    decode m (items.map PrefixItem.byte ++ b0 :: bs) = .refused .outsideTable := by
  have hread := readPrefixes_items bs hit (readItem_opcode m (.inr hb))
  simp only [decode, hread, if_pos hb, hs]

/-- A VEX prefix after one that forbids it is #UD (R98 (a), R117 (b)). -/
theorem decode_vex_forbidden {b0 : Byte} {bs : List Byte} (hb : b0 = 0xC4 ∨ b0 = 0xC5)
    (hs : startsVex m bs = some true) (hf : items.any PrefixItem.forbidsVex = true) :
    decode m (items.map PrefixItem.byte ++ b0 :: bs) = .ud .prefixBeforeVex := by
  have hread := readPrefixes_items bs hit (readItem_opcode m (.inr hb))
  simp only [decode, hread, if_pos hb, hs, hf, if_true]

/-- A VEX prefix after others is read (R97). -/
theorem decode_vex_allowed {b0 : Byte} {bs rest : List Byte} {v : VexPrefix} (hb : b0 = 0xC4 ∨ b0 = 0xC5)
    (hs : startsVex m bs = some true) (hf : items.any PrefixItem.forbidsVex = false)
    (hv : readVex b0 bs = some (v, rest)) :
    decode m (items.map PrefixItem.byte ++ b0 :: bs) = decodeVex m items v rest :=
  decode_of_readPrefixes_vex (readPrefixes_items bs hit (readItem_opcode m (.inr hb))) hb hs hf hv

/-- A well-formed VEX prefix after one that forbids it is #UD, whatever follows (R98 (a), R117 (b)). -/
theorem decode_vexPrefixBytes_forbidden {map : OpMap} {v : RegNum} {f : VexForm} (pp : SimdPrefix) (l : Bool)
    (rest : List Byte) (hform : wfVexForm m map f = true) (hv : m = .mode64 ∨ v.toNat ≤ 7)
    (hf : items.any PrefixItem.forbidsVex = true) :
    decode m (items.map PrefixItem.byte ++ (vexPrefixBytes f map (~~~v) l pp.code ++ rest)) =
      .ud .prefixBeforeVex := by
  obtain ⟨b0, bs, hbytes, hb, hs, -⟩ := readVex_vexPrefixBytes pp l rest hform hv
  rw [hbytes, decode_vex_forbidden hit hb hs hf]

/-- A well-formed VEX prefix after others is read back. -/
theorem decode_vexPrefixBytes {map : OpMap} {v : RegNum} {f : VexForm} (pp : SimdPrefix) (l : Bool)
    (rest : List Byte) (hform : wfVexForm m map f = true) (hv : m = .mode64 ∨ v.toNat ≤ 7)
    (hf : items.any PrefixItem.forbidsVex = false) :
    decode m (items.map PrefixItem.byte ++ (vexPrefixBytes f map (~~~v) l pp.code ++ rest)) =
      decodeVex m items (vexPrefixOf pp map l v f) rest := by
  obtain ⟨b0, bs, hbytes, hb, hs, hread⟩ := readVex_vexPrefixBytes pp l rest hform hv
  rw [hbytes, decode_vex_allowed hit hb hs hf hread]

end

/-! ### The opcode and its prefixes (R113, R117, R118) -/

/-- Prefix sets that are not accepted have no I.pp (R117). -/
theorem simdOf_eq_none {ps : List Prefix}
    (h : 2 ≤ (ps.filter Prefix.isSeg).length ∨ 2 ≤ ps.count .addrSize ∨ 2 ≤ (ps.filter Prefix.isSimd).length) :
    simdOf ps = none := by
  refine Option.eq_none_iff_forall_ne_some.2 fun pp hpp => ?_
  obtain ⟨hseg, haddr, hsimd, -⟩ := wfPrefixes_iff.1 (simdOf_eq_some.1 hpp)
  have hrequired := length_required_le pp
  rw [hsimd] at h
  omega

/-- A REX that anything follows does not split off (R84, R117). -/
theorem splitItems_eq_none {items : List PrefixItem} (ps : List Prefix) (r : Rex) (h : items ≠ []) :
    splitItems (ps.map PrefixItem.legacy ++ .rex r :: items) = none := by
  induction ps with
  | nil =>
    obtain ⟨it, items, rfl⟩ := List.exists_cons_of_ne_nil h
    rfl
  | cons p ps ih => rw [List.map_cons, List.cons_append, splitItems, ih, Option.map_none]

section
variable {m : Mode} {items : List PrefixItem} {map : OpMap} {opc : Byte} {bs : List Byte}

/-- An opcode that no row has under any prefix is outside the table (R113, R118). -/
theorem decodeLegacyOp_of_not_any
    (hany : legacyAgrees anyPrefixMask (rowKey false 0 map.code false false 0xF false opc) = false) :
    decodeLegacyOp m items map opc bs = .refused .outsideTable := by
  rw [decodeLegacyOp, hany]
  rfl

variable (hany : legacyAgrees anyPrefixMask (rowKey false 0 map.code false false 0xF false opc) = true)
include hany

/-- LOCK before an opcode of the table is #UD (R117 (a)). -/
theorem decodeLegacyOp_lock (hlock : PrefixItem.legacy .lock ∈ items) :
    decodeLegacyOp m items map opc bs = .ud .lock := by
  rw [decodeLegacyOp, if_pos hany, if_pos hlock]

/-- A REX that does not stand last before an opcode of the table is refused (R84, R117 (c)). -/
theorem decodeLegacyOp_of_splitItems (hlock : PrefixItem.legacy .lock ∉ items) (hsplit : splitItems items = none) :
    decodeLegacyOp m items map opc bs = .refused .prefixSet := by
  rw [decodeLegacyOp, if_pos hany, if_neg hlock, hsplit]

/-- A prefix set that is not accepted before an opcode of the table is refused (R117 (c)). -/
theorem decodeLegacyOp_of_simdOf {ps : List Prefix} {rex : Option Rex} (hlock : Prefix.lock ∉ ps)
    (hsimd : simdOf ps = none) :
    decodeLegacyOp m (prefixItems ps rex) map opc bs = .refused .prefixSet := by
  rw [← lock_mem_prefixItems (rex := rex)] at hlock
  rw [decodeLegacyOp, if_pos hany, if_neg hlock]
  simp only [splitItems_prefixItems, hsimd]

end

/-- An opcode that no row has under the accepted prefix set is outside the table (R113, R118). -/
theorem decodeLegacyOp_outside {m : Mode} {pp : SimdPrefix} {ps : List Prefix} {rex : Option Rex} {map : OpMap}
    {opc : Byte} {bs : List Byte} (hps : wfPrefixes pp ps = true)
    (hopc : (pp, map, opc) ∉ Machine.legacyOpcodes) :
    decodeLegacyOp m (prefixItems ps rex) map opc bs = .refused .outsideTable := by
  cases hany : legacyAgrees anyPrefixMask (rowKey false 0 map.code false false 0xF false opc) with
  | false => exact decodeLegacyOp_of_not_any hany
  | true =>
    obtain ⟨-, -, -, hlock⟩ := wfPrefixes_iff.1 hps
    rw [← lock_mem_prefixItems (rex := rex)] at hlock
    rw [decodeLegacyOp, if_pos hany, if_neg hlock]
    simp only [splitItems_prefixItems, simdOf_of_wfPrefixes hps]
    exact if_neg fun h => hopc (mem_legacyOpcodes h)

/-- The maps of the table are no reserved ones (R97). -/
theorem OpMap.code_not_reserved (map : OpMap) : ¬(map.code ≠ 1 ∧ map.code ≠ 2 ∧ map.code ≠ 3) := by
  cases map <;> decide

section
variable {m : Mode} {items : List PrefixItem} {v : VexPrefix} {bs : List Byte}

/-- A VEX prefix that Mode32 refuses (R98 (c), D9). -/
theorem decodeVex_vexMode32 (h : m = .mode32 ∧ (v.form.b = true ∨ v.vvvv.getLsbD 3 = false)) :
    decodeVex m items v bs = .refused .vexMode32 := by
  unfold decodeVex
  exact if_pos h

/-- A reserved mmmmm, where Mode32 does not refuse the prefix, is #UD (R97). -/
theorem decodeVex_reservedMap (hmode : ¬(m = .mode32 ∧ (v.form.b = true ∨ v.vvvv.getLsbD 3 = false)))
    (hmap : v.mmmmm ≠ 1 ∧ v.mmmmm ≠ 2 ∧ v.mmmmm ≠ 3) : decodeVex m items v bs = .ud .reservedMap := by
  unfold decodeVex
  exact (if_neg hmode).trans (if_pos hmap)

end

section
variable {m : Mode} {items : List PrefixItem} {pp : SimdPrefix} {map : OpMap} {l : Bool} {v : RegNum} {f : VexForm}
  {opc : Byte} {bs : List Byte} (hform : wfVexForm m map f = true) (hv : m = .mode64 ∨ v.toNat ≤ 7)
include hform hv

/-- A VEX opcode that no row has is outside the table (R113, R118). -/
theorem decodeVex_outside (hopc : (pp, map, opc) ∉ Machine.vexOpcodes) :
    decodeVex m items (vexPrefixOf pp map l v f) (opc :: bs) = .refused .outsideTable := by
  rw [decodeVex, if_neg (vexPrefixOf_not_refused pp l hform hv)]
  exact (if_neg map.code_not_reserved).trans (if_neg fun h => hopc (mem_vexOpcodes h))

/-- A prefix set that is not accepted before a VEX row is refused (R117 (c)). -/
theorem decodeVex_of_simdOf (hsimd : simdOf (legacyOf items) = none) (hopc : isVexOpcode pp map opc = true) :
    decodeVex m items (vexPrefixOf pp map l v f) (opc :: bs) = .refused .prefixSet := by
  rw [decodeVex, if_neg (vexPrefixOf_not_refused pp l hform hv)]
  refine (if_neg map.code_not_reserved).trans ((if_pos hopc).trans ?_)
  simp only [hsimd]

end

/-! ### Encodings of an opcode that no row takes (R114 to R116) -/

/-- A legacy encoding that no row of its opcode takes is #UD (R116). -/
theorem decode_legacy_ud {m : Mode} {pp : SimdPrefix} {map : OpMap} {opc : Byte} {e : Legacy RM} (rest : List Byte)
    (h : wfLegacy m pp e = true) (hopc : isLegacyOpcode pp map opc = true)
    (hrow : legacyRow pp map opc (rexW e.rex) e.rm.isReg = none) :
    decode m (legacyBytes map opc e ++ rest) = .ud .reservedMod := by
  obtain ⟨hps, hrex, hrm⟩ := wfLegacy_iff.1 h
  obtain ⟨hesc, hany, hagrees⟩ := isLegacyOpcode_iff.1 hopc
  rw [legacyRow] at hrow
  rw [decode_legacyBytes rest hrex hesc, decodeLegacyOp_of_wf hps hany hagrees]
  simp only [decodeLegacyRM, readRM_rmBytes _ _ hrm, hrow]

/-- A VEX encoding that no row of its opcode takes is #UD (R114 to R116). -/
theorem decode_vex_ud {m : Mode} {pp : SimdPrefix} {map : OpMap} {l : Bool} {v : RegNum} {opc : Byte} {e : Vex RM}
    (rest : List Byte) (h : wfVex m map v e = true) (hopc : isVexOpcode pp map opc = true)
    (hi : vexInstr pp map l v opc e = none) : ∃ c, decode m (vexBytes pp map l v opc e ++ rest) = .ud c := by
  obtain ⟨hps, hf, hv, hrm⟩ := wfVex_iff.1 h
  rw [decode_vexBytes pp l opc rest hps hf hv, decodeVex_of_wf hps hf hv hopc]
  simp only [decodeVexRM, readRM_rmBytes _ _ hrm, find?_vexRows]
  rw [vexInstr] at hi
  simp only [vexPrefixOf, BitVec.not_not]
  cases hrow : vexRow pp.code map.code l e.rm.isReg opc with
  | none => exact ⟨_, (apply_ite Decoded.ud _ _ _).symm⟩
  | some row =>
    have hnds : ∀ (nds : Bool) (v : RegNum), (nds || v == 0) = !(!nds && ~~~v != 0xF) := by decide
    rw [hrow, Option.bind_some, VexRow.instr, hnds] at hi
    dsimp only
    cases hv : !row.nds && ~~~v != 0xF with
    | true => exact ⟨_, rfl⟩
    | false =>
      rw [hv] at hi
      have hmake : row.make v e = none := hi
      exact ⟨_, by rw [hmake]; rfl⟩

end Sys2Proof

namespace Sys2Proof.Machine

/-! ### #UD (R97, R98, R114 to R117) -/

/-- Bytes that the decoder answers with #UD, whatever follows them, raise it (R261). -/
theorem stepRaisesUd_of_decode {m : Mode} {bs : List Byte} (h : ∀ rest, ∃ c, decode m (bs ++ rest) = .ud c) :
    StepRaisesUd m bs := by
  intro s rest hr he hm hbs
  obtain ⟨c, hc⟩ := h rest
  rw [step_of_runs hr he, hm, hbs, hc]
  rfl

theorem stepRaisesUd_vex {m : Mode} {pp : SimdPrefix} {map : OpMap} {l : Bool} {v : RegNum} {opc : Byte} {e : Vex RM}
    (h : wfVex m map v e = true) (hopc : isVexOpcode pp map opc = true) (hi : vexInstr pp map l v opc e = none) :
    StepRaisesUd m (vexBytes pp map l v opc e) :=
  stepRaisesUd_of_decode fun rest => decode_vex_ud rest h hopc hi

/-- A VEX encoding of an opcode that has no row with this L and this kind of r/m operand is #UD (R115, R116). -/
theorem stepRaisesUd_of_no_vexRow {m : Mode} {pp : SimdPrefix} {map : OpMap} {l : Bool} {v : RegNum} {opc : Byte}
    {e : Vex RM} (h : wfVex m map v e = true) (hopc : isVexOpcode pp map opc = true)
    (hrow : (vexRow pp.code map.code l e.rm.isReg opc).isNone = true) : StepRaisesUd m (vexBytes pp map l v opc e) :=
  stepRaisesUd_vex h hopc (by rw [vexInstr, Option.isNone_iff_eq_none.1 hrow, Option.bind_none])

/-- A legacy encoding of an opcode that has no row with this kind of r/m operand is #UD (R116). -/
theorem stepRaisesUd_of_no_legacyRow {m : Mode} {pp : SimdPrefix} {map : OpMap} {opc : Byte} {e : Legacy RM}
    (h : wfLegacy m pp e = true) (hopc : isLegacyOpcode pp map opc = true)
    (hrow : ∀ w, (legacyRow pp map opc w e.rm.isReg).isNone = true) : StepRaisesUd m (legacyBytes map opc e) :=
  stepRaisesUd_of_decode fun rest => ⟨_, decode_legacy_ud rest h hopc (Option.isNone_iff_eq_none.1 (hrow _))⟩

/-- Settles O5: the opcode has no NDS row, so that no row takes a vvvv that names a register other than 0. -/
theorem reservedVvvvRaisesUd : Obligations.ReservedVvvvRaisesUd := by
  intro x hx m v e hwf hv
  obtain ⟨hopc, hrows⟩ : isVexOpcode x.1 x.2.1 x.2.2.2 = true ∧
      ∀ rf, (vexRow x.1.code x.2.1.code x.2.2.1 rf x.2.2.2).all (!·.nds) = true := by
    clear hwf
    revert x
    decide
  refine stepRaisesUd_vex hwf hopc ?_
  rw [vexInstr, Option.bind_eq_none_iff]
  intro row hrow
  have hnds : row.nds = false := by simpa [hrow] using hrows e.rm.isReg
  have hv : (v == 0) = false := by simpa using hv
  simp only [VexRow.instr, hnds, hv, Bool.or_self, Bool.false_eq_true, if_false]

/-- Settles O6: the opcode has no row with L = 1. -/
theorem reservedLRaisesUd : Obligations.ReservedLRaisesUd := by
  intro x hx m v e hwf
  obtain ⟨hopc, hrows⟩ : isVexOpcode x.1 .m0F x.2 = true ∧
      ∀ rf, (vexRow x.1.code OpMap.m0F.code true rf x.2).isNone = true := by
    clear hwf
    revert x
    decide
  exact stepRaisesUd_of_no_vexRow hwf hopc (hrows _)

/-- Settles O7: the opcode has no row of the kind of r/m operand. -/
theorem reservedModRaisesUd : Obligations.ReservedModRaisesUd := by
  refine ⟨fun x hx m e hwf => ?_, fun x hx m v e hwf => ?_, fun x hx m e hwf => ?_, fun x hx m v e hwf => ?_⟩
  · obtain ⟨hopc, hrows⟩ : isLegacyOpcode x.1 x.2.1 x.2.2 = true ∧
        ∀ w, (legacyRow x.1 x.2.1 x.2.2 w true).isNone = true := by
      clear hwf
      revert x
      decide
    exact stepRaisesUd_of_no_legacyRow hwf hopc hrows
  · obtain ⟨hopc, hrow⟩ : isVexOpcode x.1 x.2.1 x.2.2.2 = true ∧
        (vexRow x.1.code x.2.1.code x.2.2.1 true x.2.2.2).isNone = true := by
      clear hwf
      revert x
      decide
    exact stepRaisesUd_of_no_vexRow hwf hopc hrow
  · obtain ⟨hopc, hrows⟩ : isLegacyOpcode x.1 x.2.1 x.2.2 = true ∧
        ∀ w, (legacyRow x.1 x.2.1 x.2.2 w false).isNone = true := by
      clear hwf
      revert x
      decide
    exact stepRaisesUd_of_no_legacyRow hwf hopc hrows
  · obtain ⟨hopc, hrow⟩ : isVexOpcode x.1 x.2.1 x.2.2.2 = true ∧
        (vexRow x.1.code x.2.1.code x.2.2.1 false x.2.2.2).isNone = true := by
      clear hwf
      revert x
      decide
    exact stepRaisesUd_of_no_vexRow hwf hopc hrow

/-- LOCK before a well-formed legacy encoding of an opcode of the table is #UD (R117 (a)). -/
theorem stepRaisesUd_lock_legacy {m : Mode} {pp : SimdPrefix} {map : OpMap} {opc : Byte} {e : Legacy RM}
    (h : wfLegacy m pp e = true) (hopc : isLegacyOpcode pp map opc = true) :
    StepRaisesUd m (0xF0 :: legacyBytes map opc e) := by
  refine stepRaisesUd_of_decode fun rest => ⟨.lock, ?_⟩
  obtain ⟨-, hrex, -⟩ := wfLegacy_iff.1 h
  obtain ⟨hesc, hany, -⟩ := isLegacyOpcode_iff.1 hopc
  have hlock : 0xF0 :: legacyBytes map opc e = legacyBytes map opc { e with prefixes := .lock :: e.prefixes } := rfl
  rw [hlock, decode_legacyBytes (e := { e with prefixes := .lock :: e.prefixes }) rest hrex hesc]
  exact decodeLegacyOp_lock hany (lock_mem_prefixItems.2 List.mem_cons_self)

/-- A prefix item that forbids VEX, before a well-formed VEX encoding of any opcode, is #UD (R98 (a), R117 (b)). -/
theorem stepRaisesUd_before_vex {m : Mode} {map : OpMap} {v : RegNum} {e : Vex RM} {it : PrefixItem}
    (pp : SimdPrefix) (l : Bool) (opc : Byte) (h : wfVex m map v e = true) (hit : readItem m it.byte = some it)
    (hf : it.forbidsVex = true) : StepRaisesUd m (it.byte :: vexBytes pp map l v opc e) := by
  refine stepRaisesUd_of_decode fun rest => ⟨.prefixBeforeVex, ?_⟩
  obtain ⟨-, hform, hv, -⟩ := wfVex_iff.1 h
  have hitems : ∀ it' ∈ it :: prefixItems e.prefixes none, readItem m it'.byte = some it' :=
    List.forall_mem_cons.2 ⟨hit, readItem_of_mem_prefixItems (.inr rfl)⟩
  have hdecode := decode_vexPrefixBytes_forbidden hitems pp l (opc :: rmBytes e.reg e.rm ++ rest) hform hv
    (by rw [List.any_cons, hf, Bool.true_or])
  rw [List.map_cons, map_byte_prefixItems] at hdecode
  simpa [vexBytes] using hdecode

/-- A three-byte VEX prefix with a reserved mmmmm is #UD, where Mode32 does not refuse it (R97, R98 (c)). -/
theorem stepRaisesUd_reservedMap {m : Mode} {b1 b2 : Byte}
    (hm : m = .mode64 ∨ (b1.extractLsb' 5 3 = 7 ∧ b2.getLsbD 6 = true))
    (hmap : b1.extractLsb' 0 5 ∉ ([1, 2, 3] : List (BitVec 5))) : StepRaisesUd m [0xC4, b1, b2] := by
  refine stepRaisesUd_of_decode fun rest => ⟨.reservedMap, ?_⟩
  have htop : ∀ b : Byte, b.extractLsb' 5 3 = 7 → b.extractLsb' 6 2 = 3 ∧ b.getLsbD 5 = true := by decide
  have hvvvv : ∀ b : Byte, (b.extractLsb' 3 4).getLsbD 3 = b.getLsbD 6 := by decide
  have hs : startsVex m (b1 :: b2 :: rest) = some true := by
    cases m with
    | mode64 => rfl
    | mode32 =>
      obtain ⟨h7, -⟩ : b1.extractLsb' 5 3 = 7 ∧ _ := by simpa using hm
      exact congrArg some (beq_iff_eq.2 (htop b1 h7).1)
  have hmode : ¬(m = .mode32 ∧ ((readVex3 b1 b2).form.b = true ∨ (readVex3 b1 b2).vvvv.getLsbD 3 = false)) := by
    rintro ⟨rfl, hbad⟩
    obtain ⟨h7, h6⟩ : b1.extractLsb' 5 3 = 7 ∧ b2.getLsbD 6 = true := by simpa using hm
    have h5 := (htop b1 h7).2
    simp only [readVex3, VexForm.b, hvvvv, h5, h6] at hbad
    simp at hbad
  have hreserved : b1.extractLsb' 0 5 ≠ 1 ∧ b1.extractLsb' 0 5 ≠ 2 ∧ b1.extractLsb' 0 5 ≠ 3 := by
    simpa only [List.mem_cons, List.not_mem_nil, or_false, not_or] using hmap
  refine (decode_vex_allowed (m := m) (items := []) (List.forall_mem_nil _) (.inl rfl) hs rfl rfl).trans ?_
  exact decodeVex_reservedMap hmode hreserved

/-- Settles O8. -/
theorem forbiddenPrefixesRaiseUd : Obligations.ForbiddenPrefixesRaiseUd := by
  refine ⟨fun m i h => ?_, fun m pp map l v opc e p h hp => ?_, fun pp map l v opc e r h => ?_,
    fun m b1 b2 => stepRaisesUd_reservedMap⟩
  · rcases encode_cases h with ⟨pp, map, opc, e, hwf, hopc, hbytes⟩ | ⟨pp, map, l, v, opc, e, hwf, hbytes⟩
    · exact hbytes ▸ stepRaisesUd_lock_legacy hwf hopc
    · exact hbytes ▸ stepRaisesUd_before_vex (it := .legacy .lock) pp l opc hwf (readItem_prefix m .lock) rfl
  · refine stepRaisesUd_before_vex (it := .legacy p) pp l opc h (readItem_prefix m p) ?_
    rcases hp with hp | rfl
    · rw [PrefixItem.forbidsVex, hp, Bool.true_or]
    · rfl
  · exact stepRaisesUd_before_vex (it := .rex r) pp l opc h (readItem_rex r) rfl

/-! ### Refusals (R84, R98, R113, R117, R118) -/

/-- No prefix of a set without LOCK and without 66, F2, F3 forbids VEX (R98 (a)). -/
theorem any_forbidsVex_prefixItems {ps : List Prefix} (hlock : Prefix.lock ∉ ps)
    (hsimd : ps.filter Prefix.isSimd = []) : (prefixItems ps none).any PrefixItem.forbidsVex = false := by
  have hs : ∀ p ∈ ps, p.isSimd = false := by simpa using hsimd
  have hl : ∀ p ∈ ps, p ≠ .lock := fun p hp hpl => hlock (hpl ▸ hp)
  simpa [prefixItems, PrefixItem.forbidsVex] using fun p hp => ⟨hs p hp, hl p hp⟩

/-- In Mode32 a three-byte VEX prefix with B' = 0 or vvvv[3] = 0 is refused (R98 (c), D9). -/
theorem decode_vexMode32 {ps : List Prefix} {b1 b2 : Byte} (rest : List Byte) (hlock : Prefix.lock ∉ ps)
    (hsimd : ps.filter Prefix.isSimd = []) (h76 : b1.extractLsb' 6 2 = 3)
    (h : b1.getLsbD 5 = false ∨ b2.getLsbD 6 = false) :
    decode .mode32 ((prefixItems ps none).map PrefixItem.byte ++ 0xC4 :: b1 :: b2 :: rest) = .refused .vexMode32 := by
  have hvvvv : ∀ b : Byte, (b.extractLsb' 3 4).getLsbD 3 = b.getLsbD 6 := by decide
  have hmode : (readVex3 b1 b2).form.b = true ∨ (readVex3 b1 b2).vvvv.getLsbD 3 = false := by
    simpa only [readVex3, VexForm.b, hvvvv, Bool.not_eq_true'] using h
  have hs : startsVex .mode32 (b1 :: b2 :: rest) = some true := congrArg some (beq_iff_eq.2 h76)
  refine (decode_vex_allowed (readItem_of_mem_prefixItems (.inr rfl)) (.inl rfl) hs
    (any_forbidsVex_prefixItems hlock hsimd) rfl).trans ?_
  exact decodeVex_vexMode32 ⟨rfl, hmode⟩

/-- An instruction's prefixes and what follows them. -/
theorem bytes_prefixItems (ps : List Prefix) (rex : Option Rex) (bs : List Byte) :
    ps.map Prefix.byte ++ (rex.toList.map Rex.byte ++ bs) = (prefixItems ps rex).map PrefixItem.byte ++ bs := by
  rw [map_byte_prefixItems, List.append_assoc]

/-- The same without a REX. -/
theorem bytes_prefixItems_none (ps : List Prefix) (bs : List Byte) :
    ps.map Prefix.byte ++ bs = (prefixItems ps none).map PrefixItem.byte ++ bs :=
  bytes_prefixItems ps none bs

/-- A REX before other prefixes of an opcode of the table is refused (R84, R117 (c)). -/
theorem decode_misplacedRex {ps qs : List Prefix} (r : Rex) {r' : Option Rex} {map : OpMap}
    {opc : Byte} (rest : List Byte) (hps : Prefix.lock ∉ ps) (hqs : Prefix.lock ∉ qs) (hne : qs ≠ [] ∨ r' ≠ none)
    (hany : legacyAgrees anyPrefixMask (rowKey false 0 map.code false false 0xF false opc) = true)
    (hesc : map = .m0F38 ∨ opc ≠ 0x38 ∧ opc ≠ 0x3A) :
    decode .mode64 (ps.map Prefix.byte ++ r.byte ::
      (qs.map Prefix.byte ++ (r'.toList.map Rex.byte ++ (map.escape ++ opc :: rest)))) = .refused .prefixSet := by
  have hbytes : ps.map Prefix.byte ++ r.byte ::
      (qs.map Prefix.byte ++ (r'.toList.map Rex.byte ++ (map.escape ++ opc :: rest))) =
        (ps.map PrefixItem.legacy ++ .rex r :: prefixItems qs r').map PrefixItem.byte ++
          (map.escape ++ opc :: rest) := by
    rw [bytes_prefixItems, List.map_append, List.map_cons, List.map_map, List.append_assoc, List.cons_append]
    rfl
  have hitems : ∀ it ∈ ps.map PrefixItem.legacy ++ .rex r :: prefixItems qs r',
      readItem .mode64 it.byte = some it := by
    simp only [List.forall_mem_append, List.forall_mem_cons, List.forall_mem_map]
    exact ⟨fun p _ => readItem_prefix _ p, readItem_rex r, readItem_of_mem_prefixItems (.inl rfl)⟩
  have hlock : PrefixItem.legacy .lock ∉ ps.map PrefixItem.legacy ++ .rex r :: prefixItems qs r' := by
    simp [lock_mem_prefixItems, hps, hqs]
  have hrest : prefixItems qs r' ≠ [] := by
    rcases hne with h | h
    · simp [prefixItems, h]
    · obtain ⟨r'', rfl⟩ := Option.ne_none_iff_exists'.1 h
      simp [prefixItems]
  rw [hbytes, decode_escape hitems rest hesc]
  exact decodeLegacyOp_of_splitItems hany hlock (splitItems_eq_none ps r hrest)

/-- Settles O9. -/
theorem outsideTheTableIsRefused : Obligations.OutsideTheTableIsRefused := by
  refine ⟨?_, by decide, ?_, ?_, ?_, ?_, ?_, ?_, ?_, ?_⟩
  · intro m ps b rest _ hb h
    rw [bytes_prefixItems_none]
    exact decode_otherByte (readItem_of_mem_prefixItems (.inr rfl)) rest hb h
  · intro m ps rex rest _ hrex
    rw [bytes_prefixItems]
    exact decode_0F3A (readItem_of_mem_prefixItems hrex) rest
  · intro m pp ps rex map opc rest hps hrex hesc hopc
    have hesc : map = .m0F38 ∨ opc ≠ 0x38 ∧ opc ≠ 0x3A := by
      cases map with
      | m0F => exact .inr (hesc rfl)
      | m0F38 => exact .inl rfl
    rw [bytes_prefixItems, decode_escape (readItem_of_mem_prefixItems hrex) rest hesc]
    exact decodeLegacyOp_outside hps hopc
  · intro m pp ps f map l v opc rest hps hform hv hopc
    rw [bytes_prefixItems_none, decode_vexPrefixBytes (readItem_of_mem_prefixItems (.inr rfl)) pp l _ hform hv
      (any_forbidsVex_of_wfPrefixes hps)]
    exact decodeVex_outside hform hv hopc
  · intro ps b0 b1 rest _ hb h76
    rw [bytes_prefixItems_none]
    exact decode_les (readItem_of_mem_prefixItems (.inr rfl)) hb (congrArg some (beq_eq_false_iff_ne.2 h76))
  · intro m pp ps rex map opc rest hlock hrex hopc h
    obtain ⟨hesc, hany, -⟩ := isLegacyOpcode_iff.1 (isLegacyOpcode_of_mem hopc)
    rw [bytes_prefixItems, decode_escape (readItem_of_mem_prefixItems hrex) rest hesc]
    exact decodeLegacyOp_of_simdOf hany hlock (simdOf_eq_none h)
  · intro pp ps qs r r' map opc rest hps hqs hne hopc
    obtain ⟨hesc, hany, -⟩ := isLegacyOpcode_iff.1 (isLegacyOpcode_of_mem hopc)
    exact decode_misplacedRex r rest hps hqs hne hany hesc
  · intro m pp ps f map l v opc rest hlock hsimd h hform hv hopc
    have hnone : simdOf ps = none := simdOf_eq_none (h.imp_right .inl)
    rw [bytes_prefixItems_none, decode_vexPrefixBytes (readItem_of_mem_prefixItems (.inr rfl)) pp l _ hform hv
      (any_forbidsVex_prefixItems hlock hsimd)]
    exact decodeVex_of_simdOf hform hv (by rw [legacyOf_prefixItems, hnone]) (isVexOpcode_of_mem hopc)
  · intro ps b1 b2 rest hlock hsimd h76 h
    rw [bytes_prefixItems_none]
    exact decode_vexMode32 rest hlock hsimd h76 h

/-! ### Opcodes shared by two rows (R112) -/

/-- Settles O60. -/
theorem sharedOpcodesAreToldApartByMod : Obligations.SharedOpcodesAreToldApartByMod := by
  refine fun m rest => ⟨fun e h => ⟨?_, ?_⟩, fun e h => ⟨?_, ?_⟩, fun v e h => ⟨?_, ?_, ?_⟩, fun v e h => ⟨?_, ?_, ?_⟩⟩
  · exact decode_encode (i := .movhlps e) rest h
  · exact decode_encode (i := .movlhps e) rest h
  · exact decode_encode (i := .movlpsLoad e) rest h
  · exact decode_encode (i := .movhpsLoad e) rest h
  · exact decode_encode (i := .vmovhlps v e) rest h
  · exact decode_encode (i := .vmovlhps v e) rest h
  · rintro rfl
    exact decode_encode (i := .vmovqReg e) rest h
  · exact decode_encode (i := .vmovlpsLoad v e) rest h
  · exact decode_encode (i := .vmovhpsLoad v e) rest h
  · rintro rfl
    exact decode_encode (i := .vmovqLoad e) rest h

end Sys2Proof.Machine
end

section
/-! Register numbers and the offsets of memory operands (30_encoding.md R84, R92 to R95, R100 to R107). -/

namespace Sys2Proof.Machine

/-! ### Words of the spec -/

/-- Settles O10. -/
theorem wordsOfTheSpecDecode : Obligations.WordsOfTheSpecDecode := by
  unfold Obligations.WordsOfTheSpecDecode
  decide

/-! ### Register numbers (R84, R92, R93, R105 to R107) -/

/-- A field of three bits with its extension bit in front (R105). -/
theorem toNat_extend (bit : Bool) (n : BitVec 3) : (extend bit n).toNat = 8 * bit.toNat + n.toNat := by
  revert bit n; decide

/-- The register that vvvv names is 15 minus the field (R95). -/
theorem not_vvvv (n : BitVec 4) : ~~~n = BitVec.ofNat 4 (15 - n.toNat) := by
  revert n; decide

/-- MOVQ mm, mm, its operands numbered by the three-bit fields alone (R107, R240). -/
theorem exec_movqMmLoad_reg (ps : List Prefix) (rex : Option Rex) (q n : BitVec 3) (s : State) :
    exec (.movqMmLoad ⟨ps, rex, q, .reg n⟩) s =
      regMove (checkMMX .mmx) (legacyLen .m0F ⟨ps, rex, q, .reg n⟩)
        (fun t => (t.setMm q (t.mmAt n)).mmxTransition) s := by
  simp only [exec, execMovqMmLoad, Legacy.operand, moveIn, readOperand, setWidth_extend, Check.bind_ok_left, regMove]

/-- The same with the operands the other way round (R107, R241). -/
theorem exec_movqMmStore_reg (ps : List Prefix) (rex : Option Rex) (q n : BitVec 3) (s : State) :
    exec (.movqMmStore ⟨ps, rex, q, .reg n⟩) s =
      regMove (checkMMX .mmx) (legacyLen .m0F ⟨ps, rex, q, .reg n⟩)
        (fun t => (t.setMm n (t.mmAt q)).mmxTransition) s := by
  simp only [exec, execMovqMmStore, Legacy.operand, moveOut, writeOperand, setWidth_extend, Check.bind_ok_left, regMove]

/-- The decoder reads back a well-formed instruction of a VEX row from its bytes, vvvv written as the field. -/
theorem decode_vex_vvvv {i : RegNum → Instr} {pp : SimdPrefix} {opc : Byte} {e : Vex RM} {n : BitVec 4}
    (rest : List Byte) (hwf : (i (~~~n)).wf .mode64 = true)
    (hbytes : encode (i (~~~n)) = vexBytes pp .m0F false (~~~n) opc e) :
    decode .mode64 (e.prefixes.map Prefix.byte ++ (vexPrefixBytes e.form .m0F n false pp.code ++
      (opc :: rmBytes e.reg e.rm ++ rest))) = .instr (i (BitVec.ofNat 4 (15 - n.toNat))) := by
  have h := decode_encode rest hwf
  rw [hbytes, vexBytes, BitVec.not_not, List.append_assoc, List.append_assoc] at h
  rw [← not_vvvv]
  exact h

/-- Settles O14. -/
theorem registerNumbers : Obligations.RegisterNumbers := by
  refine ⟨?_, ?_, ?_, ?_, ?_, ?_, ?_, ?_, fun _ _ => rfl, fun _ => rfl, ?_, ?_, ?_, ?_, ?_, ?_, ?_, ?_⟩
  · intro α e r h
    simp [Legacy.regNum, h, rexR, toNat_extend]
  · intro α e h
    simp [Legacy.regNum, h, rexR, toNat_extend]
  · intro α e r h
    simp [Vex.regNum, h, VexForm.r, toNat_extend]
  · intro α e r x b w h
    simp [Vex.regNum, h, VexForm.r, toNat_extend]
  · intro e r h
    simp [Legacy.rmNum, h, rexB, toNat_extend]
  · intro e h
    simp [Legacy.rmNum, h, rexB, toNat_extend]
  · intro e r h
    simp [Vex.rmNum, h, VexForm.b, toNat_extend]
  · intro e r x b w h
    simp [Vex.rmNum, h, VexForm.b, toNat_extend]
  · exact fun n e rest h => decode_vex_vvvv (i := (.vmovhlps · e)) (pp := .none) (e := e.map RM.reg) rest h rfl
  · exact fun n e rest h => decode_vex_vvvv (i := (.vmovlhps · e)) (pp := .none) (e := e.map RM.reg) rest h rfl
  · exact fun n e rest h => decode_vex_vvvv (i := (.vmovhpdLoad · e)) (pp := .p66) (e := e.map RM.mem) rest h rfl
  · exact fun n e rest h => decode_vex_vvvv (i := (.vmovhpsLoad · e)) (pp := .none) (e := e.map RM.mem) rest h rfl
  · exact fun n e rest h => decode_vex_vvvv (i := (.vmovlpdLoad · e)) (pp := .p66) (e := e.map RM.mem) rest h rfl
  · exact fun n e rest h => decode_vex_vvvv (i := (.vmovlpsLoad · e)) (pp := .none) (e := e.map RM.mem) rest h rfl
  · refine fun e => ⟨rfl, rfl, ?_⟩
    exact congrArg Dest.mmx (setWidth_extend _ e.rm)
  · rintro ps ⟨w, r, x, b⟩ ⟨w', r', x', b'⟩ q n op s
    refine ⟨?_, ?_, ?_⟩
    · rw [exec_movqMmLoad_reg, exec_movqMmLoad_reg]
      rfl
    · rw [exec_movqMmStore_reg, exec_movqMmStore_reg]
      rfl
    · rintro (rfl : b = b')
      refine ⟨rfl, ?_⟩
      rintro (rfl : x = x')
      exact ⟨rfl, rfl, rfl⟩

/-! ### Offsets (R100 to R102) -/

/-- A shift by `k` is a multiplication by 2^k, modulo 2^w (R100). -/
theorem shiftLeft_eq_mul_twoPow {w : Nat} (v : BitVec w) (k : Nat) : v <<< k = v * 2 ^ k := by
  have hpow : (BitVec.twoPow w k) = 2 ^ k := by
    apply BitVec.eq_of_toNat_eq
    rw [BitVec.toNat_twoPow, BitVec.toNat_pow, Nat.pow_mod]
    rfl
  rw [BitVec.shiftLeft_eq_mul_twoPow, hpow]

/-- The index number 0100b adds nothing (R86). -/
theorem indexValue_of_eq {w : Nat} {rd : RegNum → BitVec w} {x : Bool} {sc : BitVec 2} {ix : BitVec 3}
    (h : extend x ix = 4) : indexValue rd x sc ix = 0 :=
  if_pos h

/-- Any other index is its register times 2^scale (R100). -/
theorem indexValue_of_ne {w : Nat} {rd : RegNum → BitVec w} {x : Bool} {sc : BitVec 2} {ix : BitVec 3}
    (h : extend x ix ≠ 4) : indexValue rd x sc ix = rd (extend x ix) * 2 ^ sc.toNat :=
  (if_neg h).trans (shiftLeft_eq_mul_twoPow _ _)

/-- The offset under 64-bit addressing (R100, R103). -/
theorem State.offset_a64 {s : State} {r : MemRef} (h : addrSize s.cfg.mode r.prefixes = .a64) :
    s.offset r = wideOffset s.gprAt (s.nextRip r.len) true r.x r.b r.op := by
  rw [State.offset, h]

/-- The offset under 32-bit addressing (R100, R103). -/
theorem State.offset_a32 {s : State} {r : MemRef} (h : addrSize s.cfg.mode r.prefixes = .a32) :
    s.offset r =
      (wideOffset (fun n => (s.gprAt n).setWidth 32) ((s.nextRip r.len).setWidth 32) (decide (s.cfg.mode = .mode64))
        r.x r.b r.op).setWidth 64 := by
  rw [State.offset, h]

/-- The offset under 16-bit addressing (R102, R103). -/
theorem State.offset_a16 {s : State} {r : MemRef} (h : addrSize s.cfg.mode r.prefixes = .a16) :
    s.offset r = (offset16 (fun n => (s.gprAt n).setWidth 16) r.op).setWidth 64 := by
  rw [State.offset, h]

/-- 64-bit addressing is that of Mode64 without 67 (R103). -/
theorem addrSize_a64 {ps : List Prefix} (h : Prefix.addrSize ∉ ps) : addrSize .mode64 ps = .a64 :=
  if_neg h

/-- 32-bit addressing is that of Mode64 with 67 and of Mode32 without (R103). -/
theorem addrSize_a32 {m : Mode} {ps : List Prefix} (h : m = .mode64 ↔ Prefix.addrSize ∈ ps) :
    addrSize m ps = .a32 := by
  cases m with
  | mode64 => exact if_pos (h.1 rfl)
  | mode32 => exact if_neg fun hp => Mode.noConfusion (h.2 hp)

/-- 16-bit addressing is that of Mode32 with 67 (R103). -/
theorem addrSize_a16 {ps : List Prefix} (h : Prefix.addrSize ∈ ps) : addrSize .mode32 ps = .a16 :=
  if_pos h

/-- Settles O11. -/
theorem effectiveAddress64And32 : Obligations.EffectiveAddress64And32 := by
  intro s x b ps len
  refine ⟨fun hm hps => ?_, fun hmps => ?_⟩
  · have ha : addrSize s.cfg.mode ps = .a64 := hm ▸ addrSize_a64 hps
    refine ⟨fun rm => ?_, fun rm d => ?_, fun rm d => ?_, fun sc ix bs d h => ?_, fun sc ix bs d h => ?_,
      fun sc ix d h => ?_, fun sc ix d h => ?_, fun d => ?_⟩
    all_goals rw [State.offset_a64 ha, wideOffset]
    · exact BitVec.add_zero _
    · rfl
    · rfl
    · rw [indexValue_of_ne h]
    · rw [indexValue_of_eq h, add_zero]
    · rw [indexValue_of_ne h]
    · rw [indexValue_of_eq h, zero_add]
    · rw [if_pos rfl, State.nextRip_mode64 hm]
  · have ha : addrSize s.cfg.mode ps = .a32 := addrSize_a32 hmps
    refine ⟨fun rm d => ?_, fun sc ix bs d h => ?_, fun sc ix bs d h => ?_, fun sc ix d h => ?_,
      fun sc ix d h => ?_, fun d => ?_⟩
    all_goals rw [State.offset_a32 ha, wideOffset]
    · rw [indexValue_of_ne h]
    · rw [indexValue_of_eq h, add_zero]
    · rw [indexValue_of_ne h, BitVec.signExtend_eq]
    · rw [indexValue_of_eq h, zero_add, BitVec.signExtend_eq]
    · cases hm : s.cfg.mode with
      | mode64 => simp [State.nextRip_mode64 hm]
      | mode32 => simp

/-- Settles O12. -/
theorem effectiveAddress16 : Obligations.EffectiveAddress16 := by
  intro s x b ps len d hm hps
  have ha : addrSize s.cfg.mode ps = .a16 := hm ▸ addrSize_a16 hps
  refine ⟨fun v => by rw [State.offset_a16 ha, offset16], fun rm => ?_, fun hseg => ⟨fun v => ?_, fun rm => ?_⟩⟩
  · have hrm : ∀ rm : BitVec 3, rm = 0 ∨ rm = 1 ∨ rm = 2 ∨ rm = 3 ∨ rm = 4 ∨ rm = 5 ∨ rm = 6 ∨ rm = 7 := by decide
    rw [State.offset_a16 ha, offset16]
    rcases hrm rm with rfl | rfl | rfl | rfl | rfl | rfl | rfl | rfl <;> rfl
  · rw [segOf, hseg]
    rfl
  · rw [segOf, hseg]
    rfl

end Sys2Proof.Machine
end

section
/-! The check procedures (60_exceptions.md R262, R269 to R275; R122), and the steps that execute nothing (R89, R118,
R289, R301, R304). -/

namespace Sys2Proof.Machine

/-! ### The check procedure of a row -/

/-- Settles O43: an instruction is its check procedure, and what follows where that lets pass. -/
theorem everyRowRunsItsCheckProcedure : Obligations.EveryRowRunsItsCheckProcedure := by
  intro i s e h
  obtain ⟨f, b, -, -, hx⟩ := exec_effect i
  rw [hx, h]
  rfl

/-- Two checks in a row raise the exception of the first where the first does, or where the second does. -/
theorem failIf_bind_eq_raise {bad : Bool} {e : Exn} {f : Unit → Check Unit} :
    (failIf bad e).bind f = .raise e ↔ bad = true ∨ f () = .raise e := by
  cases bad <;> simp [failIf]

/-- Every check procedure raises #UD where its CPUID flag is 0: the checks before that of the flag raise #UD too
(R122, R270 to R274). -/
theorem Gate.check_of_missing {g : Gate} {s : State} (h : s.has g.feature = false) : g.check s = .raise .ud := by
  cases g <;> rw [Gate.feature] at h <;>
    simp [Gate.check, checkSSE, checkVEX, checkMMX, checkMOVNTI, checkMOVDQ2Q, failIf_bind_eq_raise, failIf_eq_raise,
      h]

/-- The VEX rows ask for AVX, but for VMOVNTDQA ymm, which asks for AVX2 (R111). -/
theorem feature_of_gate_vex {i : Instr} {f : Feature} (h : i.gate = .vex f) :
    (f = .avx2 ∧ ∃ e, i = .vmovntdqaY e) ∨ f = .avx := by
  cases i with
  | vmovntdqaY e =>
    cases h
    exact .inl ⟨rfl, e, rfl⟩
  | _ => cases h <;> exact .inr rfl

/-- Settles O44. -/
theorem missingFeatureRaisesUd : Obligations.MissingFeatureRaisesUd := by
  refine ⟨fun i s h => everyRowRunsItsCheckProcedure i s .ud (Gate.check_of_missing h), ?_⟩
  rintro i ⟨f, h⟩
  rw [h]
  exact feature_of_gate_vex h

/-! ### The steps that execute nothing -/

/-- A context that refuses is refused whatever the bytes (D2, D29). -/
theorem step_of_contextRefusal {s : State} {r : Refusal} (h : s.contextRefusal = some r) : step s = .refused r := by
  rw [step, h]

/-- Real-address mode is refused (R301, D2). -/
theorem step_realAddressMode {s : State} (h : s.cr0.getLsbD 0 = false) : step s = .refused .realAddressMode :=
  step_of_contextRefusal (by rw [State.contextRefusal, State.pe, h]; rfl)

/-- Settles O55. -/
theorem stepsThatExecuteNothing : Obligations.StepsThatExecuteNothing := by
  refine ⟨fun s hr he => ?_, fun s hr he => ?_, fun s => step_realAddressMode, fun s hpe hvm => ?_,
    fun s hpe hvm h => ?_, step_realAddressMode (by decide)⟩
  · rw [step, hr.contextRefusal, he]
    rfl
  · rw [step_of_runs hr he]
    exact ⟨fun c h => by rw [h]; rfl, fun h => by rw [h]; rfl, fun h => by rw [h]; rfl, fun h => by rw [h]; rfl,
      fun h => by rw [h]; rfl⟩
  · exact step_of_contextRefusal (by rw [State.contextRefusal, State.pe, hpe, State.vm, hvm]; rfl)
  · have hdebug : (s.tf || s.breakpoints) = true := Bool.or_eq_true_iff.2 h
    exact step_of_contextRefusal (by rw [State.contextRefusal, State.pe, hpe, State.vm, hvm, hdebug]; rfl)

end Sys2Proof.Machine
end

section
/-! The moves from an r/m operand to a vector register, by the kind of the operand, and MOVDDUP and VMOVDDUP
(40_movddup.md R130 to R132). -/

namespace Sys2Proof.Machine

/-! ### A move from an r/m operand: its write is what is left to show -/

section
variable {i : Instr} {w : Nat} {al : AlignRule} {rd : State → RegNum → BitVec w} {wr : State → BitVec w → State}
  {d : RegNum}

/-- For a row that is a move from a register: the write of that register's value. -/
theorem MovesVector.of_moveIn {n : RegNum} {result : State → YWord}
    (hx : ∀ s, exec i s = moveIn i.gate.check i.len al rd (.reg n) wr s)
    (hf : ∀ s, i.gate.Ready s → ∀ ip,
      ({ wr s (rd s n) with rip := ip } : State).ymmAt d = result s ∧
        OnlyVector d s { wr s (rd s n) with rip := ip }) :
    MovesVector i d result :=
  .of_next (fun s => wr s (rd s n)) (fun s hc => (hx s).trans (moveIn_reg_run hc)) hf

/-- For a row that is a move from memory: the write of the value loaded. -/
theorem LoadsVector.of_moveIn {r : MemRef} {result : State → BitVec w → YWord}
    (hx : ∀ s, exec i s = moveIn i.gate.check i.len al rd (.mem r) wr s)
    (hf : ∀ s v, i.gate.Ready s → ∀ ip,
      ({ wr s v with rip := ip } : State).ymmAt d = result s v ∧ OnlyVector d s { wr s v with rip := ip }) :
    LoadsVector i al r d result :=
  .of_next wr (fun s _ hc hl => (hx s).trans (moveIn_mem_run hc hl)) hf

end

/-! ### MOVDDUP and VMOVDDUP -/

/-- MOVDDUP keeps the bits above its result (R130). -/
theorem exec_movddup (e : Legacy RM) (s : State) :
    exec (.movddup e) s = moveIn (Gate.check (.sse .sse3)) (legacyLen .m0F e) (.definite 8) State.lowAt (e.operand .m0F)
      (fun t v => t.setXmmKeep e.regNum (v ++ v)) s :=
  rfl

/-- VMOVDDUP xmm zeroes them (R131). -/
theorem exec_vmovddupX (e : Vex RM) (s : State) :
    exec (.vmovddupX e) s = moveIn (Gate.check (.vex .avx)) (vexLen e) (.definite 8) State.lowAt e.operand
      (fun t v => t.setXmmZero e.regNum (v ++ v)) s :=
  rfl

/-- VMOVDDUP ymm writes all 256 bits (R132). -/
theorem exec_vmovddupY (e : Vex RM) (s : State) :
    exec (.vmovddupY e) s = moveIn (Gate.check (.vex .avx)) (vexLen e) (.draw 32) State.ymmAt e.operand
      (fun t v => t.setYmm e.regNum (duplicateEven v)) s :=
  rfl

/-- Settles O21: each row is a move from its r/m operand, and its write is that of R25 (a), (b) or (c). -/
theorem movddupDuplicates : Obligations.MovddupDuplicates := by
  refine ⟨fun e => ?legacyReg, fun e => ?legacyMem, fun e => ?vex128Reg, fun e => ?vex128Mem, fun e => ?vex256Reg,
    fun e => ?vex256Mem⟩
  case legacyReg => exact .of_moveIn (exec_movddup _) fun s _ => setXmmKeep_frame s _ _
  case legacyMem => exact .of_moveIn (exec_movddup _) fun s _ _ => setXmmKeep_frame s _ _
  case vex128Reg => exact .of_moveIn (exec_vmovddupX _) fun _ hr => setXmmZero_frame (vlmax_of_ready hr) _ _
  case vex128Mem => exact .of_moveIn (exec_vmovddupX _) fun _ _ hr => setXmmZero_frame (vlmax_of_ready hr) _ _
  case vex256Reg => exact .of_moveIn (exec_vmovddupY _) fun _ hr => setYmm_frame (vlmax_of_ready hr) _ _
  case vex256Mem => exact .of_moveIn (exec_vmovddupY _) fun _ _ hr => setYmm_frame (vlmax_of_ready hr) _ _

end Sys2Proof.Machine
end

section
/-! The moves to an r/m operand, by the kind of the operand, and MOVDQA, MOVDQU and their VEX forms
(41_movdqa_movdqu.md R140 to R145, R150 to R155). -/

namespace Sys2Proof.Machine

/-! ### A move to an r/m operand -/

section
variable {i : Instr} {w : Nat} {al : AlignRule} {v : State → BitVec w} {wr : State → RegNum → BitVec w → State}

/-- For a row that is a move to a register: the write of the source is what is left to show. -/
theorem MovesVector.of_moveOut {d : RegNum} {result : State → YWord}
    (hx : ∀ s, exec i s = moveOut i.gate.check i.len al v (.reg d) wr id s)
    (hf : ∀ s, i.gate.Ready s → ∀ ip,
      ({ wr s d (v s) with rip := ip } : State).ymmAt d = result s ∧
        OnlyVector d s { wr s d (v s) with rip := ip }) :
    MovesVector i d result :=
  .of_next (fun s => wr s d (v s)) (fun s hc => (hx s).trans (moveOut_reg_run hc)) hf

/-- A row that is a move to memory stores its source, and nothing is done after the store. -/
theorem StoresTo.of_moveOut {r : MemRef}
    (hx : ∀ s, exec i s = moveOut i.gate.check i.len al v (.mem r) wr id s) : StoresTo i al r v SameTags :=
  .of_next id (fun _ => rfl) (fun _ _ _ => ⟨rfl, rfl⟩) (fun _ _ _ _ ho => ho)
    (fun s _ hc hs => (hx s).trans (moveOut_mem_run hc hs))

end

/-! ### MOVDQA: memory aligned on the size of the operand -/

section
variable (s : State)

/-- MOVDQA xmm1, xmm2/m128 keeps the bits above (R140). -/
theorem exec_movdqaLoad (e : Legacy RM) :
    exec (.movdqaLoad e) s = moveIn (Gate.check (.sse .sse2)) (legacyLen .m0F e) (.required 16) State.xmmAt
      (e.operand .m0F) (fun t v => t.setXmmKeep e.regNum v) s :=
  rfl

/-- MOVDQA xmm2/m128, xmm1 keeps the bits above in a register (R141). -/
theorem exec_movdqaStore (e : Legacy RM) :
    exec (.movdqaStore e) s = moveOut (Gate.check (.sse .sse2)) (legacyLen .m0F e) (.required 16)
      (fun t => t.xmmAt e.regNum) (e.operand .m0F) State.setXmmKeep id s :=
  rfl

/-- VMOVDQA xmm1, xmm2/m128 zeroes the bits above (R142). -/
theorem exec_vmovdqaXLoad (e : Vex RM) :
    exec (.vmovdqaXLoad e) s = moveIn (Gate.check (.vex .avx)) (vexLen e) (.required 16) State.xmmAt e.operand
      (fun t v => t.setXmmZero e.regNum v) s :=
  rfl

/-- VMOVDQA xmm2/m128, xmm1 zeroes the bits above in a register (R143). -/
theorem exec_vmovdqaXStore (e : Vex RM) :
    exec (.vmovdqaXStore e) s = moveOut (Gate.check (.vex .avx)) (vexLen e) (.required 16)
      (fun t => t.xmmAt e.regNum) e.operand State.setXmmZero id s :=
  rfl

/-- VMOVDQA ymm1, ymm2/m256 (R144). -/
theorem exec_vmovdqaYLoad (e : Vex RM) :
    exec (.vmovdqaYLoad e) s = moveIn (Gate.check (.vex .avx)) (vexLen e) (.required 32) State.ymmAt e.operand
      (fun t v => t.setYmm e.regNum v) s :=
  rfl

/-- VMOVDQA ymm2/m256, ymm1 (R145). -/
theorem exec_vmovdqaYStore (e : Vex RM) :
    exec (.vmovdqaYStore e) s = moveOut (Gate.check (.vex .avx)) (vexLen e) (.required 32)
      (fun t => t.ymmAt e.regNum) e.operand State.setYmm id s :=
  rfl

/-! ### MOVDQU: any alignment, and a draw on 8 bytes under alignment checking (R56 (a)) -/

/-- MOVDQU xmm1, xmm2/m128 keeps the bits above (R150). -/
theorem exec_movdquLoad (e : Legacy RM) :
    exec (.movdquLoad e) s = moveIn (Gate.check (.sse .sse2)) (legacyLen .m0F e) (.draw 8) State.xmmAt
      (e.operand .m0F) (fun t v => t.setXmmKeep e.regNum v) s :=
  rfl

/-- MOVDQU xmm2/m128, xmm1 keeps the bits above in a register (R151). -/
theorem exec_movdquStore (e : Legacy RM) :
    exec (.movdquStore e) s = moveOut (Gate.check (.sse .sse2)) (legacyLen .m0F e) (.draw 8)
      (fun t => t.xmmAt e.regNum) (e.operand .m0F) State.setXmmKeep id s :=
  rfl

/-- VMOVDQU xmm1, xmm2/m128 zeroes the bits above (R152). -/
theorem exec_vmovdquXLoad (e : Vex RM) :
    exec (.vmovdquXLoad e) s = moveIn (Gate.check (.vex .avx)) (vexLen e) (.draw 8) State.xmmAt e.operand
      (fun t v => t.setXmmZero e.regNum v) s :=
  rfl

/-- VMOVDQU xmm2/m128, xmm1 zeroes the bits above in a register (R153). -/
theorem exec_vmovdquXStore (e : Vex RM) :
    exec (.vmovdquXStore e) s = moveOut (Gate.check (.vex .avx)) (vexLen e) (.draw 8)
      (fun t => t.xmmAt e.regNum) e.operand State.setXmmZero id s :=
  rfl

/-- VMOVDQU ymm1, ymm2/m256 (R154). -/
theorem exec_vmovdquYLoad (e : Vex RM) :
    exec (.vmovdquYLoad e) s = moveIn (Gate.check (.vex .avx)) (vexLen e) (.draw 8) State.ymmAt e.operand
      (fun t v => t.setYmm e.regNum v) s :=
  rfl

/-- VMOVDQU ymm2/m256, ymm1 (R155). -/
theorem exec_vmovdquYStore (e : Vex RM) :
    exec (.vmovdquYStore e) s = moveOut (Gate.check (.vex .avx)) (vexLen e) (.draw 8)
      (fun t => t.ymmAt e.regNum) e.operand State.setYmm id s :=
  rfl

end

/-! ### Results -/

/-- Settles O22: opcode 6F is a move from its r/m operand, opcode 7F one to it, and the write is that of R25 (a), (b)
or (c). -/
theorem doubleQuadwordRegisterMoves : Obligations.DoubleQuadwordRegisterMoves := by
  refine ⟨fun e => ?movdqaLoad, fun e => ?movdqaStore, fun e => ?vmovdqaXLoad, fun e => ?vmovdqaXStore,
    fun e => ?vmovdqaYLoad, fun e => ?vmovdqaYStore, fun e => ?movdquLoad, fun e => ?movdquStore,
    fun e => ?vmovdquXLoad, fun e => ?vmovdquXStore, fun e => ?vmovdquYLoad, fun e => ?vmovdquYStore⟩
  case movdqaLoad => exact .of_moveIn (exec_movdqaLoad · _) fun s _ => setXmmKeep_frame s _ _
  case movdqaStore => exact .of_moveOut (exec_movdqaStore · _) fun s _ => setXmmKeep_frame s _ _
  case vmovdqaXLoad => exact .of_moveIn (exec_vmovdqaXLoad · _) fun _ hr => setXmmZero_frame (vlmax_of_ready hr) _ _
  case vmovdqaXStore => exact .of_moveOut (exec_vmovdqaXStore · _) fun _ hr => setXmmZero_frame (vlmax_of_ready hr) _ _
  case vmovdqaYLoad => exact .of_moveIn (exec_vmovdqaYLoad · _) fun _ hr => setYmm_frame (vlmax_of_ready hr) _ _
  case vmovdqaYStore => exact .of_moveOut (exec_vmovdqaYStore · _) fun _ hr => setYmm_frame (vlmax_of_ready hr) _ _
  case movdquLoad => exact .of_moveIn (exec_movdquLoad · _) fun s _ => setXmmKeep_frame s _ _
  case movdquStore => exact .of_moveOut (exec_movdquStore · _) fun s _ => setXmmKeep_frame s _ _
  case vmovdquXLoad => exact .of_moveIn (exec_vmovdquXLoad · _) fun _ hr => setXmmZero_frame (vlmax_of_ready hr) _ _
  case vmovdquXStore => exact .of_moveOut (exec_vmovdquXStore · _) fun _ hr => setXmmZero_frame (vlmax_of_ready hr) _ _
  case vmovdquYLoad => exact .of_moveIn (exec_vmovdquYLoad · _) fun _ hr => setYmm_frame (vlmax_of_ready hr) _ _
  case vmovdquYStore => exact .of_moveOut (exec_vmovdquYStore · _) fun _ hr => setYmm_frame (vlmax_of_ready hr) _ _

/-- Settles O23: the value loaded is written as R25 (a), (b) or (c) says. -/
theorem doubleQuadwordLoads : Obligations.DoubleQuadwordLoads := by
  refine ⟨fun e => ?movdqa, fun e => ?vmovdqaX, fun e => ?vmovdqaY, fun e => ?movdqu, fun e => ?vmovdquX,
    fun e => ?vmovdquY⟩
  case movdqa => exact .of_moveIn (exec_movdqaLoad · _) fun s _ _ => setXmmKeep_frame s _ _
  case vmovdqaX => exact .of_moveIn (exec_vmovdqaXLoad · _) fun _ _ hr => setXmmZero_frame (vlmax_of_ready hr) _ _
  case vmovdqaY => exact .of_moveIn (exec_vmovdqaYLoad · _) fun _ _ hr => setYmm_frame (vlmax_of_ready hr) _ _
  case movdqu => exact .of_moveIn (exec_movdquLoad · _) fun s _ _ => setXmmKeep_frame s _ _
  case vmovdquX => exact .of_moveIn (exec_vmovdquXLoad · _) fun _ _ hr => setXmmZero_frame (vlmax_of_ready hr) _ _
  case vmovdquY => exact .of_moveIn (exec_vmovdquYLoad · _) fun _ _ hr => setYmm_frame (vlmax_of_ready hr) _ _

/-- Settles O24: each row is a move to memory with nothing after it. -/
theorem doubleQuadwordStores : Obligations.DoubleQuadwordStores := by
  refine ⟨fun e => ?movdqa, fun e => ?vmovdqaX, fun e => ?vmovdqaY, fun e => ?movdqu, fun e => ?vmovdquX,
    fun e => ?vmovdquY⟩
  case movdqa => exact .of_moveOut (exec_movdqaStore · _)
  case vmovdqaX => exact .of_moveOut (exec_vmovdqaXStore · _)
  case vmovdqaY => exact .of_moveOut (exec_vmovdqaYStore · _)
  case movdqu => exact .of_moveOut (exec_movdquStore · _)
  case vmovdquX => exact .of_moveOut (exec_vmovdquXStore · _)
  case vmovdquY => exact .of_moveOut (exec_vmovdquYStore · _)

end Sys2Proof.Machine
end

section
/-! The write of an MMX register, and MOVDQ2Q (42_movdq2q.md R160). -/

namespace Sys2Proof.Machine

/-! ### A write of an MMX register, with the MMX transition -/

/-- The x87 data register of MM[d] after the write: ones above the quadword (R27). -/
theorem State.x87_setMm_upper (s : State) (d : MmxNum) (v : QWord) :
    ((s.setMm d v).x87.get d.toFin).extractLsb' 64 16 = 0xFFFF#16 := by
  rw [State.x87_setMm, if_pos rfl, extract_high_append]

/-- The write and the transition (R27, R29), RIP past the instruction: MM[d], its x87 register and the tags change,
and nothing else does. -/
theorem mmxWritten_setMm (i : Instr) (d : MmxNum) (v : QWord) (s : State) :
    MmxWritten i d v s { (s.setMm d v).mmxTransition with rip := s.nextRip i.len } := by
  refine ⟨?value, ?ones, ⟨rfl, rfl⟩, by rw [length_encode], ?others, rfl, rfl, rfl,
    ⟨rfl, rfl, rfl, rfl, rfl, rfl, rfl, rfl, rfl⟩, fun _ => rfl⟩
  case value =>
    show (s.setMm d v).mmAt d = v
    rw [State.mmAt_setMm, if_pos rfl]
  case ones => exact s.x87_setMm_upper d v
  case others =>
    intro n hn
    show (s.setMm d v).x87.get n.toFin = _
    rw [State.x87_setMm, if_neg (Ne.symm hn)]

/-- For a row that is a move within the registers to an MMX register: its check procedure is all that stops it. -/
theorem MovesMmx.of_regMove {i : Instr} {d : MmxNum} {result : State → QWord}
    (hx : ∀ s, exec i s = regMove i.gate.check i.len (fun t => (t.setMm d (result t)).mmxTransition) s) :
    MovesMmx i d result :=
  fun s hr => ⟨_, (hx s).trans (regMove_run (Gate.check_of_ready hr)), mmxWritten_setMm i d (result s) s⟩

/-! ### MOVDQ2Q -/

/-- MOVDQ2Q is a move of the low quadword within the registers, under CheckMOVDQ2Q (R160, R274). -/
theorem exec_movdq2q (e : Legacy RegField) (s : State) :
    exec (.movdq2q e) s = regMove (Gate.check .movdq2q) (e.lenReg .m0F)
      (fun t => (t.setMm e.reg (t.lowAt e.rmNum)).mmxTransition) s :=
  rfl

/-- Settles O26. -/
theorem movdq2qMovesAndTransitions : Obligations.Movdq2qMovesAndTransitions :=
  fun e => .of_regMove (exec_movdq2q e)

end Sys2Proof.Machine
end

section
/-! MOVHLPS, MOVLHPS, MOVHPD, MOVHPS, MOVLPD, MOVLPS and their VEX forms (43_movh_movl.md R165 to R184): the moves
within the vector registers and what stops them, the loads, and the stores. Each row is a `regMove`, `load` or `store`
by its definition, so that what is left of a result is the frame of its write. -/

namespace Sys2Proof.Machine

/-! ### Rows of one kind of operand -/

section
variable {i : Instr} {d : RegNum}

/-- For a row that is a move within the registers: the write is what is left to show. -/
theorem MovesVector.of_regMove {result : State → YWord} {wr : State → State}
    (hx : ∀ s, exec i s = regMove i.gate.check i.len wr s)
    (hf : ∀ s, i.gate.Ready s → ∀ ip,
      ({ wr s with rip := ip } : State).ymmAt d = result s ∧ OnlyVector d s { wr s with rip := ip }) :
    MovesVector i d result :=
  .of_next wr (fun s hc => (hx s).trans (regMove_run hc)) hf

variable {w : Nat} {al : AlignRule} {r : MemRef} (hlen : r.len = i.len)
include hlen

/-- For a row that takes a memory source only: the write of the value loaded is what is left to show. -/
theorem LoadsVector.of_load {result : State → BitVec w → YWord} {wr : State → BitVec w → State}
    (hx : ∀ s, exec i s = load i.gate.check al r wr s)
    (hf : ∀ s v, i.gate.Ready s → ∀ ip,
      ({ wr s v with rip := ip } : State).ymmAt d = result s v ∧ OnlyVector d s { wr s v with rip := ip }) :
    LoadsVector i al r d result :=
  .of_next wr (fun s _ hc hl => by rw [hx s, load_run hc hl, hlen]) hf

/-- A row that takes a memory destination only stores its source, and nothing is done after the store. -/
theorem StoresTo.of_store {v : State → BitVec w} (hx : ∀ s, exec i s = store i.gate.check al r v id s) :
    StoresTo i al r v SameTags :=
  .of_next id (fun _ => rfl) (fun _ _ _ => ⟨rfl, rfl⟩) (fun _ _ _ _ ho => ho)
    (fun s _ hc hs => by rw [hx s, store_run hc hs, hlen])

end

/-! ### The moves within the vector registers (R165, R166, R175, R176) -/

theorem movesVector_movhlps (e : Legacy RegField) : MovesVector (.movhlps e) e.regNum
    fun s => s.upperAt e.regNum ++ (s.highAt e.regNum ++ s.highAt e.rmNum) :=
  .of_regMove (fun _ => rfl) fun s _ => setXmmKeep_frame s _ _

theorem movesVector_vmovhlps (v : RegNum) (e : Vex RegField) : MovesVector (.vmovhlps v e) e.regNum
    fun s => 0#128 ++ (s.highAt v ++ s.highAt e.rmNum) :=
  .of_regMove (fun _ => rfl) fun _ hr => setXmmZero_frame (vlmax_of_ready hr) _ _

theorem movesVector_movlhps (e : Legacy RegField) : MovesVector (.movlhps e) e.regNum
    fun s => s.upperAt e.regNum ++ (s.lowAt e.rmNum ++ s.lowAt e.regNum) :=
  .of_regMove (fun _ => rfl) fun s _ => setXmmKeep_frame s _ _

theorem movesVector_vmovlhps (v : RegNum) (e : Vex RegField) : MovesVector (.vmovlhps v e) e.regNum
    fun s => 0#128 ++ (s.lowAt e.rmNum ++ s.lowAt v) :=
  .of_regMove (fun _ => rfl) fun _ hr => setXmmZero_frame (vlmax_of_ready hr) _ _

/-! ### What stops them -/

/-- Three checks for #UD, then one for #NM: the form of CheckSSE and CheckVEX (R270, R271). -/
theorem ud_ud_ud_nm_cases : ∀ a b c d : Bool,
    (a = false ∧ b = false ∧ c = false ∧ d = false) ∨
      ∃ e, (e = .ud ∨ e = .nm) ∧
        ((failIf a .ud).bind fun _ => (failIf b .ud).bind fun _ => (failIf c .ud).bind fun _ => failIf d .nm) =
          .raise e
  | true, _, _, _ | false, true, _, _ | false, false, true, _ => .inr ⟨.ud, .inl rfl, rfl⟩
  | false, false, false, true => .inr ⟨.nm, .inr rfl, rfl⟩
  | false, false, false, false => .inl ⟨rfl, rfl, rfl, rfl⟩

/-- CheckSSE and CheckVEX let pass, or raise #UD or #NM. -/
theorem Gate.ready_or_raises {g : Gate} (hg : ∃ f, g = .sse f ∨ g = .vex f) (s : State) :
    g.Ready s ∨ ∃ e, (e = .ud ∨ e = .nm) ∧ g.check s = .raise e := by
  obtain ⟨f, rfl | rfl⟩ := hg
  · refine (ud_ud_ud_nm_cases s.em (!s.osfxsr) (!s.has f) s.ts).imp_left fun h => ?_
    simpa [Gate.Ready, State.SseReady] using h
  · refine (ud_ud_ud_nm_cases (!s.osxsave) (!s.avxState) (!s.has f) s.ts).imp_left fun h => ?_
    simpa [Gate.Ready, State.VexReady] using h

/-- A row that completes wherever CheckSSE or CheckVEX lets pass stops only there. -/
theorem MovesVector.stopsOnlyAtGate {i : Instr} {d : RegNum} {result : State → YWord} (h : MovesVector i d result)
    (hg : ∃ f, i.gate = .sse f ∨ i.gate = .vex f) : StopsOnlyAtGate i i.gate := by
  refine ⟨rfl, fun s => (Gate.ready_or_raises hg s).imp (fun hr => ?_) fun ⟨e, he, hc⟩ => ?_⟩
  · obtain ⟨t, ht, -⟩ := h s hr
    exact ⟨hr, t, ht⟩
  · exact ⟨e, he, hc, everyRowRunsItsCheckProcedure i s e hc⟩

/-- Settles O27: the encodings are read back by the round trip `decode_encode`, and VEX.L = 1 is reserved at both
opcodes. -/
theorem halfRegisterMoves : Obligations.HalfRegisterMoves := by
  refine ⟨movesVector_movhlps, movesVector_vmovhlps, movesVector_movlhps, movesVector_vmovlhps, fun e => ?stopsLegacy,
    fun v e => ?stopsVex, fun m e rest h => ?readLegacy, fun m v e rest h => ?readVex⟩
  case stopsLegacy =>
    exact ⟨(movesVector_movhlps e).stopsOnlyAtGate ⟨_, .inl rfl⟩,
      (movesVector_movlhps e).stopsOnlyAtGate ⟨_, .inl rfl⟩⟩
  case stopsVex =>
    exact ⟨(movesVector_vmovhlps v e).stopsOnlyAtGate ⟨_, .inr rfl⟩,
      (movesVector_vmovlhps v e).stopsOnlyAtGate ⟨_, .inr rfl⟩⟩
  case readLegacy => exact ⟨decode_encode (i := .movhlps e) rest h, decode_encode (i := .movlhps e) rest h⟩
  case readVex =>
    exact ⟨decode_encode (i := .vmovhlps v e) rest h, decode_encode (i := .vmovlhps v e) rest h,
      reservedLRaisesUd (.none, 0x12) (by decide) m v _ h, reservedLRaisesUd (.none, 0x16) (by decide) m v _ h⟩

/-! ### The loads and the stores (R167 to R174, R177 to R184) -/

/-- Settles O28: the operand and the kept half are written as R25 (a) or (b) says. -/
theorem halfLoads : Obligations.HalfLoads := by
  refine ⟨fun e => ?movhpd, fun v e => ?vmovhpd, fun e => ?movhps, fun v e => ?vmovhps, fun e => ?movlpd,
    fun v e => ?vmovlpd, fun e => ?movlps, fun v e => ?vmovlps⟩
  case movhpd | movhps | movlpd | movlps => exact .of_load rfl (fun _ => rfl) fun s _ _ => setXmmKeep_frame s _ _
  case vmovhpd | vmovhps | vmovlpd | vmovlps =>
    exact .of_load rfl (fun _ => rfl) fun _ _ hr => setXmmZero_frame (vlmax_of_ready hr) _ _

/-- Settles O29: each row is a move of one half to memory with nothing after it. -/
theorem halfStores : Obligations.HalfStores := by
  refine ⟨fun e => ?movhpd, fun e => ?vmovhpd, fun e => ?movhps, fun e => ?vmovhps, fun e => ?movlpd,
    fun e => ?vmovlpd, fun e => ?movlps, fun e => ?vmovlps⟩
  case movhpd | movhps | movlpd | movlps => exact .of_store rfl fun _ => rfl
  case vmovhpd | vmovhps | vmovlpd | vmovlps => exact .of_store rfl fun _ => rfl

end Sys2Proof.Machine
end

section
/-! MOVMSKPD, MOVMSKPS and their VEX forms (44_movmsk.md R200 to R205): the bits of the mask, the write of a
general-purpose register by mode, and the six rows. -/

namespace Sys2Proof.Machine

/-! ### The mask -/

/-- The bits of a mask of at most 64 elements; each recursion of `signMask` adds the bit of its last element. -/
theorem getLsbD_signMask {w : Nat} (size : Nat) {count : Nat} (hc : count ≤ 64) (v : BitVec w) (j : Nat) :
    (signMask size count v).getLsbD j = (decide (j < count) && v.getLsbD (size * j + (size - 1))) := by
  induction count with
  | zero => simp [signMask]
  | succ k ih =>
    rw [signMask, BitVec.getLsbD_or, ih (by omega), BitVec.getLsbD_shiftLeft, BitVec.getLsbD_setWidth,
      BitVec.getLsbD_ofBool]
    obtain hlt | rfl | hgt := Nat.lt_trichotomy j k
    · simp [hlt, Nat.lt_succ_of_lt hlt]
    · simp [show j < 64 by omega]
    · simp [Nat.not_lt_of_gt hgt, show ¬j < k + 1 by omega, show j - k ≠ 0 by omega]

/-- A bit of XMM[n] is that bit of YMM[n] (R9). -/
theorem State.getLsbD_xmmAt (s : State) (n : RegNum) {b : Nat} (hb : b < 128) :
    (s.xmmAt n).getLsbD b = (s.ymmAt n).getLsbD b := by
  simp [State.xmmAt, hb]

/-! ### The write of a general-purpose register, by mode -/

/-- The bits written: all 64 in Mode64, bits 31:0 in Mode32 (R21). -/
theorem State.getLsbD_gprAt_setGprByMode (s : State) (d : RegNum) (v : QWord) {j : Nat}
    (hj : s.cfg.mode = .mode32 → j < 32) : ((s.setGprByMode d v).gprAt d).getLsbD j = v.getLsbD j := by
  cases hm : s.cfg.mode with
  | mode64 => simp [State.setGprByMode, hm, State.gprAt_setGpr]
  | mode32 =>
    have hlow : j < 32 := hj hm
    simp only [State.setGprByMode, hm, State.gprAt_setGpr, if_pos]
    rw [BitVec.getLsbD_append]
    simp [hlow]

/-- The register written and RIP are all that differs. -/
theorem setGprByMode_frame (s : State) (d : RegNum) (v ip : QWord) :
    OnlyGpr d s { s.setGprByMode d v with rip := ip } :=
  ⟨fun _ hn => s.gprAt_setGprByMode_ne v hn, s.setGprByMode_ymm d v, s.setGprByMode_x87 d v, s.setGprByMode_top d v,
    s.setGprByMode_ftw d v, s.setGprByMode_draws d v, by simp [SameSystem], by simp [SameMemory]⟩

/-! ### Rows that write a mask -/

section
variable {i : Instr} {d n : RegNum} {size count : Nat}

/-- For a row that writes the mask of `val` to a general-purpose register: that the elements of `val` have the top bits
of those of `src` is left to show. -/
theorem MasksSigns.of_regMove {w : Nat} {val : State → BitVec w} {src : State → YWord} (hc : count ≤ 64)
    (hx : ∀ s, exec i s = regMove i.gate.check i.len (fun t => t.setGprByMode d (signMask size count (val t))) s)
    (hv : ∀ s, ∀ j < count, (val s).getLsbD (size * j + (size - 1)) = (src s).getLsbD (size * j + (size - 1))) :
    MasksSigns i d size count src := by
  intro s hr
  refine ⟨_, (hx s).trans (regMove_run (Gate.check_of_ready hr)), fun j hj => ?bits, by rw [length_encode],
    setGprByMode_frame s d _ _⟩
  case bits =>
    calc ((s.setGprByMode d (signMask size count (val s))).gprAt d).getLsbD j
        = (signMask size count (val s)).getLsbD j :=
          s.getLsbD_gprAt_setGprByMode d _ fun hm => by simpa [hm] using hj
      _ = (decide (j < count) && (val s).getLsbD (size * j + (size - 1))) := getLsbD_signMask size hc _ j
      _ = (decide (j < count) && (src s).getLsbD (size * j + (size - 1))) := by
          by_cases hlt : j < count
          · rw [hv s j hlt]
          · simp [hlt]

/-- The elements of a 128-bit source all lie in bits 127:0 of the vector register. -/
theorem MasksSigns.of_xmm (hc : count ≤ 64) (hsize : 0 < size) (hfit : size * count ≤ 128)
    (hx : ∀ s, exec i s = regMove i.gate.check i.len
      (fun t => t.setGprByMode d (signMask size count (t.xmmAt n))) s) :
    MasksSigns i d size count fun s => s.ymmAt n := by
  refine .of_regMove hc hx fun s j hj => s.getLsbD_xmmAt n ?_
  calc size * j + (size - 1) < size * (j + 1) := by rw [Nat.mul_succ]; omega
    _ ≤ size * count := Nat.mul_le_mul_left size hj
    _ ≤ 128 := hfit

theorem MasksSigns.of_ymm (hc : count ≤ 64)
    (hx : ∀ s, exec i s = regMove i.gate.check i.len
      (fun t => t.setGprByMode d (signMask size count (t.ymmAt n))) s) :
    MasksSigns i d size count fun s => s.ymmAt n :=
  .of_regMove hc hx fun _ _ _ => rfl

end

/-- Settles O30: each row is by its definition the move of a mask, of XMM or of YMM, to a general-purpose register. -/
theorem signMasks : Obligations.SignMasks := by
  refine ⟨fun e => ?movmskpd, fun e => ?vmovmskpdX, fun e => ?vmovmskpdY, fun e => ?movmskps, fun e => ?vmovmskpsX,
    fun e => ?vmovmskpsY⟩
  case movmskpd | vmovmskpdX | movmskps | vmovmskpsX =>
    exact .of_xmm (by decide) (by decide) (by decide) fun _ => rfl
  case vmovmskpdY | vmovmskpsY => exact .of_ymm (by decide) fun _ => rfl

end Sys2Proof.Machine
end

section
/-! MOVNTDQA, MOVNTDQ, MOVNTI, MOVNTPD, MOVNTPS, MOVNTQ and their VEX forms (45_movnt.md R210 to R224), and the store of
MOVQ m64, mm (46_movq.md R241). A non-temporal hint has no effect (R66, R68, R70), so each row is a `load` or a `store`
by its definition; what is new is a write of VLMAX bits where VLMAX may be 128, and the MMX transition after a store. -/

namespace Sys2Proof.Machine

/-! ### The write of VLMAX bits (R24) -/

/-- The 256 bits of a vector register after VLMAX bits of `v` are written to it: with VLMAX = 128, what is above bit
127 is no part of the register and keeps what it holds (assumption log 14). -/
def State.ymmWritten (s : State) (d : RegNum) (v : YWord) : YWord :=
  if s.vlmax = 256 then v else s.upperAt d ++ v.extractLsb' 0 128

theorem State.ymmWritten_low (s : State) (d : RegNum) (v : YWord) :
    (s.ymmWritten d v).extractLsb' 0 128 = v.extractLsb' 0 128 := by
  rw [State.ymmWritten]
  split
  · rfl
  · exact extract_low_append _ _

theorem State.ymmWritten_of_vlmax {s : State} (h : s.vlmax = 256) (d : RegNum) (v : YWord) : s.ymmWritten d v = v :=
  if_pos h

/-- Without 256-bit registers, a write of YMM[d] is a write of XMM[d] that keeps the bits above. -/
theorem State.setYmm_eq_setXmmKeep {s : State} (h : s.vlmax ≠ 256) (d : RegNum) (v : YWord) :
    s.setYmm d v = s.setXmmKeep d (v.extractLsb' 0 128) := by
  simp only [State.setXmmKeep, State.setYmm, if_neg h, extract_low_append]

/-- A VEX.256 write, whatever VLMAX is. -/
theorem setYmm_frame_vlmax (s : State) (d : RegNum) (v : YWord) (ip : QWord) :
    ({ s.setYmm d v with rip := ip } : State).ymmAt d = s.ymmWritten d v ∧
      OnlyVector d s { s.setYmm d v with rip := ip } := by
  by_cases h : s.vlmax = 256
  · rw [State.ymmWritten_of_vlmax h]
    exact setYmm_frame h d v ip
  · rw [State.setYmm_eq_setXmmKeep h, State.ymmWritten, if_neg h]
    exact setXmmKeep_frame s d _ ip

/-! ### The streaming loads (R210 to R212) -/

/-- VMOVNTDQA ymm asks for AVX2 only (R212), so VLMAX may be 128 or 256. -/
theorem loadsVector_vmovntdqaY (e : Vex MemOp) : LoadsVector (.vmovntdqaY e) (.required 32) e.memRef e.regNum
    fun s (m : BitVec 256) => s.ymmWritten e.regNum m :=
  .of_load rfl (fun _ => rfl) fun s v _ => setYmm_frame_vlmax s e.regNum v

/-- Settles O31: the 128-bit rows write as R25 (a) or (b) says, the 256-bit row as `State.ymmWritten` does. -/
theorem streamingLoads : Obligations.StreamingLoads := by
  refine ⟨fun e => ?movntdqa, fun e => ?vmovntdqaX, fun e s locs hr ha => ?vmovntdqaY⟩
  case movntdqa => exact .of_load rfl (fun _ => rfl) fun s _ _ => setXmmKeep_frame s _ _
  case vmovntdqaX => exact .of_load rfl (fun _ => rfl) fun _ _ hr => setXmmZero_frame (vlmax_of_ready hr) _ _
  case vmovntdqaY =>
    obtain ⟨t, hnext, hymm, hrip, honly⟩ := loadsVector_vmovntdqaY e s locs hr ha
    refine ⟨t, hnext, ?low, fun hv => hymm.trans (State.ymmWritten_of_vlmax hv _ _), hrip, honly⟩
    case low => rw [State.xmmAt, hymm, State.ymmWritten_low]

/-! ### The stores of a vector or general-purpose register (R213 to R223) -/

/-- Settles O32: each row is a store of its source register with nothing after it. -/
theorem nonTemporalVectorStores : Obligations.NonTemporalVectorStores := by
  refine ⟨fun e => ?movntdq, fun e => ?vmovntdqX, fun e => ?vmovntdqY, fun e => ?movntpd, fun e => ?vmovntpdX,
    fun e => ?vmovntpdY, fun e => ?movntps, fun e => ?vmovntpsX, fun e => ?vmovntpsY⟩
  case movntdq | movntpd | movntps => exact .of_store rfl fun _ => rfl
  case vmovntdqX | vmovntpdX | vmovntpsX => exact .of_store rfl fun _ => rfl
  case vmovntdqY | vmovntpdY | vmovntpsY => exact .of_store rfl fun _ => rfl

/-- MOVNTI m32, r32 stores bits 31:0 of its source (R216). -/
theorem exec_movnti32 (e : Legacy MemOp) (s : State) :
    exec (.movnti32 e) s = store (Gate.check .movnti) (.definite 4) (e.memRef .m0F)
      (fun t => (t.gprAt e.regNum).extractLsb' 0 32) id s := by
  simp only [← BitVec.setWidth_eq_extractLsb' (show 32 ≤ 64 by decide)]
  rfl

/-- Settles O33: the condition of CheckMOVNTI is CPUID.SSE2 alone, and each width is a store with nothing after it. -/
theorem nonTemporalIntegerStores : Obligations.NonTemporalIntegerStores := by
  refine ⟨fun e => ?movnti32, fun e => ?movnti64⟩
  case movnti32 => exact .of_store rfl (exec_movnti32 e)
  case movnti64 => exact .of_store rfl fun _ => rfl

/-! ### The stores of an MMX register (R224, R241) -/

/-- The MMX transition and RIP are none of what OnlyStored speaks of. -/
theorem OnlyStored.mmxTransition {locs : List Nat} {s t : State} (h : OnlyStored locs s t) (ip : QWord) :
    OnlyStored locs s { t.mmxTransition with rip := ip } :=
  h

/-- For a row that makes the MMX transition after its store (R29): that its source is stored is what is left to
show. -/
theorem StoresTo.of_next_mmx {w : Nat} {i : Instr} {al : AlignRule} {r : MemRef} {v : State → BitVec w}
    (hx : ∀ s t, i.gate.check s = .ok () → storeMem al r (v s) s = .ok t →
      exec i s = .next { t.mmxTransition with rip := s.nextRip i.len }) : StoresTo i al r v MmxTags :=
  .of_next State.mmxTransition (fun _ => rfl) (fun _ _ _ => ⟨rfl, rfl⟩) (fun _ _ _ ip ho => ho.mmxTransition ip) hx

/-- MOVNTQ is a store of MM[reg] with the MMX transition after it (R224). -/
theorem exec_movntq (e : Legacy MemOp) (s : State) :
    exec (.movntq e) s = store (Gate.check (.mmx .sse)) (.definite 8) (e.memRef .m0F) (fun t => t.mmAt e.reg)
      State.mmxTransition s :=
  rfl

/-- MOVQ m64, mm is a move of MM[reg] to memory with the MMX transition after it (R241). -/
theorem exec_movqMmStore_mem (e : Legacy MemOp) (s : State) :
    exec (.movqMmStore (e.map RM.mem)) s = moveOut (Gate.check (.mmx .mmx)) (legacyLen .m0F (e.map RM.mem))
      (.definite 8) (fun t => t.mmAt e.reg) (.mem (e.memRef .m0F)) (fun t n v => t.setMm (n.setWidth 3) v)
      State.mmxTransition s :=
  rfl

/-- Settles O34: MOVNTQ is a store and MOVQ m64, mm a move to memory, each with the MMX transition after it. -/
theorem mmxStores : Obligations.MmxStores := by
  refine ⟨fun e => .of_next_mmx fun s t hc hs => ?movntq, fun e => .of_next_mmx fun s t hc hs => ?movqMmStore⟩
  case movntq => exact (exec_movntq e s).trans (store_run hc hs)
  case movqMmStore => exact (exec_movqMmStore_mem e s).trans (moveOut_mem_run hc hs)

end Sys2Proof.Machine
end

section
/-! MOVQ and VMOVQ (46_movq.md R240 to R246): the moves to an MMX register, the moves to a vector register, and the
stores of the low quadword of one. -/

namespace Sys2Proof.Machine

/-! ### The moves to an MMX register (R240, R241) -/

/-- For a row that is a move from memory to an MMX register: where the operand is accessible, its check procedure is
all that stops it. -/
theorem mmxWritten_of_moveIn_mem {i : Instr} {d : MmxNum} {al : AlignRule} {r : MemRef} {s : State} {locs : List Nat}
    {rd : State → RegNum → QWord}
    (hx : exec i s = moveIn i.gate.check i.len al rd (.mem r) (fun t v => (t.setMm d v).mmxTransition) s)
    (hr : i.gate.Ready s) (ha : s.Accessible .read al 8 r locs) :
    ∃ t, exec i s = .next t ∧ MmxWritten i d (leValue 64 (s.mem.readAll locs)) s t := by
  have hload : loadMem 64 al r s = .ok (leValue 64 (s.mem.readAll locs), s) :=
    loadMem_eq_ok.2 ⟨locs, ha.memAccess, rfl⟩
  exact ⟨_, hx.trans (moveIn_mem_run (Gate.check_of_ready hr) hload), mmxWritten_setMm i d _ s⟩

/-- MOVQ mm, m64 makes the MMX transition after its write (R240, R29). -/
theorem exec_movqMmLoad_mem (e : Legacy MemOp) (s : State) :
    exec (.movqMmLoad (e.map RM.mem)) s = moveIn (Gate.check (.mmx .mmx)) (legacyLen .m0F (e.map RM.mem)) (.definite 8)
      (fun t n => t.mmAt (n.setWidth 3)) (.mem (e.memRef .m0F)) (fun t v => (t.setMm e.reg v).mmxTransition) s :=
  rfl

/-- Settles O35: between registers each row is a move by the three-bit fields alone (R107), and from memory a move of
the quadword loaded. -/
theorem movqMmxMoves : Obligations.MovqMmxMoves := by
  refine ⟨fun e => ?loadReg, fun e => ?storeReg, fun e s locs hr ha => ?loadMem⟩
  case loadReg => exact .of_regMove (exec_movqMmLoad_reg e.prefixes e.rex e.reg e.rm)
  case storeReg => exact .of_regMove (exec_movqMmStore_reg e.prefixes e.rex e.reg e.rm)
  case loadMem => exact mmxWritten_of_moveIn_mem (exec_movqMmLoad_mem e s) hr ha

/-! ### The moves to a vector register (R242 to R246) -/

section
variable (s : State)

/-- MOVQ xmm1, xmm2/m64 zeroes bits 127:64 and keeps those above (R242). -/
theorem exec_movqXmmLoad (e : Legacy RM) :
    exec (.movqXmmLoad e) s = moveIn (Gate.check (.sse .sse2)) (legacyLen .m0F e) (.definite 8) State.lowAt
      (e.operand .m0F) (fun t v => t.setXmmKeep e.regNum (0#64 ++ v)) s :=
  rfl

/-- VMOVQ xmm1, xmm2 zeroes every bit above 63 (R243). -/
theorem exec_vmovqReg (e : Vex RegField) :
    exec (.vmovqReg e) s = regMove (Gate.check (.vex .avx)) e.lenReg
      (fun t => t.setXmmZero e.regNum (0#64 ++ t.lowAt e.rmNum)) s :=
  rfl

/-- VMOVQ xmm1, m64 zeroes every bit above 63 (R244). -/
theorem exec_vmovqLoad (e : Vex MemOp) :
    exec (.vmovqLoad e) s = load (Gate.check (.vex .avx)) (.definite 8) e.memRef
      (fun t (m : QWord) => t.setXmmZero e.regNum (0#64 ++ m)) s :=
  rfl

/-- MOVQ xmm2/m64, xmm1 zeroes bits 127:64 of a register and keeps those above (R245). -/
theorem exec_movqXmmStore (e : Legacy RM) :
    exec (.movqXmmStore e) s = moveOut (Gate.check (.sse .sse2)) (legacyLen .m0F e) (.definite 8)
      (fun t => t.lowAt e.regNum) (e.operand .m0F) (fun t n v => t.setXmmKeep n (0#64 ++ v)) id s :=
  rfl

/-- VMOVQ xmm1/m64, xmm2 zeroes every bit of a register above 63 (R246). -/
theorem exec_vmovqStore (e : Vex RM) :
    exec (.vmovqStore e) s = moveOut (Gate.check (.vex .avx)) (vexLen e) (.definite 8)
      (fun t => t.lowAt e.regNum) e.operand (fun t n v => t.setXmmZero n (0#64 ++ v)) id s :=
  rfl

end

/-- Settles O36: the quadword, with zeros above it up to bit 127, is written as R25 (a) or (b) says. -/
theorem movqXmmMoves : Obligations.MovqXmmMoves := by
  refine ⟨fun e => ?loadReg, fun e => ?loadMem, fun e => ?vexReg, fun e => ?vexLoad, fun e => ?storeReg,
    fun e => ?vexStoreReg⟩
  case loadReg => exact .of_moveIn (exec_movqXmmLoad · _) fun s _ => setXmmKeep_frame s _ _
  case loadMem => exact .of_moveIn (exec_movqXmmLoad · _) fun s _ _ => setXmmKeep_frame s _ _
  case vexReg => exact .of_regMove (exec_vmovqReg · e) fun _ hr => setXmmZero_frame (vlmax_of_ready hr) _ _
  case vexLoad => exact .of_load rfl (exec_vmovqLoad · e) fun _ _ hr => setXmmZero_frame (vlmax_of_ready hr) _ _
  case storeReg => exact .of_moveOut (exec_movqXmmStore · _) fun s _ => setXmmKeep_frame s _ _
  case vexStoreReg => exact .of_moveOut (exec_vmovqStore · _) fun _ hr => setXmmZero_frame (vlmax_of_ready hr) _ _

/-! ### The stores of the low quadword (R245, R246) -/

/-- Settles O37: each row is a move to memory with nothing after it. -/
theorem movqXmmStores : Obligations.MovqXmmStores := by
  refine ⟨fun e => ?movq, fun e => ?vmovq⟩
  case movq => exact .of_moveOut (exec_movqXmmStore · _)
  case vmovq => exact .of_moveOut (exec_vmovqStore · _)

end Sys2Proof.Machine
end

section
/-! The exceptions (60_exceptions.md R260, R265, R269 to R274, R280 to R282): the check procedures as chains of
conditions, what each check of an access can raise, and what is recorded of a fault. -/

namespace Sys2Proof.Machine

/-! ### The check procedures (R270 to R274) -/

/-- A check and what follows it, as a condition. -/
theorem failIf_bind {α : Type} (bad : Bool) (e : Exn) (f : Unit → Check α) :
    (failIf bad e).bind f = if bad = true then .raise e else f () := by
  cases bad <;> rfl

/-- The same for a bit that must be 1. -/
theorem failIf_not_bind {α : Type} (good : Bool) (e : Exn) (f : Unit → Check α) :
    (failIf (!good) e).bind f = if good = false then .raise e else f () := by
  cases good <;> rfl

/-- Settles O39. -/
theorem checkSseProcedure : Obligations.CheckSseProcedure := by
  intro f s
  rw [checkSSE, failIf_bind, failIf_not_bind, failIf_not_bind]
  rfl

/-- Settles O40. -/
theorem checkVexProcedure : Obligations.CheckVexProcedure := by
  intro f s
  rw [checkVEX, failIf_not_bind, failIf_not_bind, failIf_not_bind]
  rfl

/-- Settles O41. -/
theorem checkMmxProcedure : Obligations.CheckMmxProcedure := by
  intro f s
  rw [checkMMX, failIf_bind, failIf_not_bind, failIf_bind]
  rfl

/-- Settles O42. -/
theorem checkMovntiAndMovdq2qProcedures : Obligations.CheckMovntiAndMovdq2qProcedures := by
  refine ⟨fun s => ?movnti, fun s => ?movdq2q⟩
  case movnti =>
    rw [checkMOVNTI]
    cases s.has .sse2 <;> rfl
  case movdq2q =>
    rw [checkMOVDQ2Q, failIf_bind, failIf_not_bind, failIf_not_bind, failIf_bind]
    rfl

/-- A check procedure raises only the exceptions of its line in the table (R269). -/
theorem Gate.vector_mem_of_check {g : Gate} {s : State} {e : Exn} (h : g.check s = .raise e) (ip : QWord) :
    faultVector (exnFault e ip) ∈ g.vectors := by
  cases g <;> rw [Gate.check] at h
  case' sse f => rw [checkSseProcedure f s] at h
  case' vex f => rw [checkVexProcedure f s] at h
  case' mmx f => rw [checkMmxProcedure f s] at h
  case' movnti => rw [checkMovntiAndMovdq2qProcedures.1 s] at h
  case' movdq2q => rw [checkMovntiAndMovdq2qProcedures.2 s] at h
  all_goals split_ifs at h <;> cases h <;> simp [exnFault, faultVector, vectors]

/-- No check procedure raises #PF. -/
theorem Gate.check_ne_pf (g : Gate) (s : State) (c : BitVec 32) (a : QWord) : g.check s ≠ .raise (.pf c a) := by
  intro h
  have hmem : 14 ∈ g.vectors := Gate.vector_mem_of_check h 0
  cases g <;> simp [vectors] at hmem

/-! ### The checks of an access (R54, R56, R58, R61) -/

section
variable {s : State} {kind : AccessKind} {al : AlignRule} {e : Exn}

/-- The oracle's faults are #GP(0), #SS(0), and #PF with what it answers for the byte (R61, R265). -/
theorem State.translate_raise_cases {as : List QWord} (h : s.translate kind as = .raise e) :
    e = .gp ∨ e = .ss ∨ ∃ b c a, e = .pf c a ∧ s.accessByte kind b = .pf c a := by
  induction as with
  | nil => cases h
  | cons b rest ih =>
    rw [State.translate] at h
    cases hb : s.accessByte kind b <;> rw [hb] at h
    case ok phys =>
      rcases Check.bind_eq_raise.1 h with h | ⟨_, -, h⟩
      · exact ih h
      · cases h
    case pf c a => cases h; exact .inr (.inr ⟨b, c, a, rfl, hb⟩)
    case gp => cases h; exact .inl rfl
    case ss => cases h; exact .inr (.inl rfl)
    case device => cases h

/-- A misaligned operand of an aligned move is #GP(0) (R54). -/
theorem alignRequired_raise {la : QWord} (h : alignRequired al la = .raise e) : e = .gp := by
  cases al with
  | required n => exact (failIf_eq_raise.1 h).2.symm
  | definite n => cases h
  | draw n => cases h

/-- Alignment checking raises #AC(0), and not for the aligned moves (R56). -/
theorem alignChecked_raise {la : QWord} (h : alignChecked al la s = .raise e) :
    e = .ac ∧ ∀ n, al ≠ .required n := by
  cases al <;> rw [alignChecked] at h
  case required n => cases h
  case definite n => split_ifs at h; cases h; exact ⟨rfl, nofun⟩
  case draw n => split_ifs at h; cases h; exact ⟨rfl, nofun⟩

/-- The text check raises nothing: it refuses (R75). -/
theorem State.textCheck_ne_raise {as : List QWord} {locs : List Nat} : s.textCheck kind as locs ≠ .raise e := by
  intro h
  cases kind <;> rw [State.textCheck] at h
  case read => cases h
  case write => split_ifs at h

/-- What the checks of an access can raise: #GP(0), #SS(0), #AC(0) unless the move is an aligned one, and #PF with
what the oracle answers for some byte. -/
theorem memAccess_raise_cases {n : Nat} {r : MemRef} (h : memAccess kind al n r s = .raise e) :
    e = .gp ∨ e = .ss ∨ (e = .ac ∧ ∀ k, al ≠ .required k) ∨ ∃ b c a, e = .pf c a ∧ s.accessByte kind b = .pf c a := by
  rw [memAccess] at h
  split_ifs at h
  rcases Check.bind_eq_raise.1 h with hform | ⟨_, -, h⟩
  · obtain ⟨-, rfl⟩ := failIf_eq_raise.1 hform
    rcases s.addressExn_cases kind r with ⟨hss, -⟩ | ⟨hgp, -⟩
    · exact .inr (.inl hss)
    · exact .inl hgp
  rcases Check.bind_eq_raise.1 h with hreq | ⟨_, -, h⟩
  · exact .inl (alignRequired_raise hreq)
  rcases Check.bind_eq_raise.1 h with hbyte | ⟨_, -, h⟩
  · exact (State.translate_raise_cases hbyte).imp_right (Or.imp_right .inr)
  rcases Check.bind_eq_raise.1 h with hac | ⟨_, -, h⟩
  · exact .inr (.inr (.inl (alignChecked_raise hac)))
  rcases Check.bind_eq_raise.1 h with htext | ⟨_, -, h⟩
  · exact absurd htext State.textCheck_ne_raise
  · cases h

end

/-! ### The exceptions of each row (R269) -/

/-- Settles O46: a fault is one of the check procedure, or else one of the access. -/
theorem exceptionsOfEachRow : Obligations.ExceptionsOfEachRow := by
  intro i s f h
  obtain ⟨e, rfl, hcheck | ⟨a, ha, haccess⟩⟩ := exec_fault_cases h
  · exact .inl (Gate.vector_mem_of_check hcheck s.rip)
  · refine .inr ⟨a, ha, ?_⟩
    rcases memAccess_raise_cases haccess with rfl | rfl | ⟨rfl, hal⟩ | ⟨_, c, b, rfl, -⟩
    · exact .inl (by simp [exnFault, faultVector])
    · exact .inl (by simp [exnFault, faultVector])
    · exact .inr ⟨rfl, hal⟩
    · exact .inl (by simp [exnFault, faultVector])

/-! ### What is recorded of a fault (R260, R281, R282) -/

@[simp] theorem exnFault_rip (e : Exn) (ip : QWord) : (exnFault e ip).rip = ip := by cases e <;> rfl

/-- Only #PF has an error code other than 0. -/
theorem faultErrorCode_exnFault {e : Exn} {ip : QWord} (h : faultVector (exnFault e ip) ≠ 14) :
    faultErrorCode (exnFault e ip) = none ∨ faultErrorCode (exnFault e ip) = some 0 := by
  cases e with
  | ud | nm | mf => exact .inl rfl
  | ss | gp | ac => exact .inr rfl
  | pf c a => exact absurd rfl h

/-- The record of #PF is that of the exception with its error code and faulting address. -/
theorem eq_pf_of_exnFault {e : Exn} {ip ip' : QWord} {c : BitVec 32} {a : QWord} (h : exnFault e ip = .pf c ip' a) :
    e = .pf c a := by
  cases e <;> cases h
  rfl

/-- A step that faults has met undefined bytes, bytes that end no instruction, or the fault of an instruction. -/
theorem step_fault_cases {s : State} {f : Fault} (h : step s = .fault f) :
    f = exnFault .ud s.rip ∨ f = exnFault .gp s.rip ∨ ∃ i, exec i s = .fault f := by
  rw [step] at h
  cases hc : s.contextRefusal <;> rw [hc] at h
  case some r => cases h
  case none =>
    cases he : s.atEnd <;> rw [he] at h
    case true => cases h
    case false =>
      cases hd : decode s.cfg.mode s.fetchBytes <;> rw [hd] at h
      case instr i => exact .inr (.inr ⟨i, h⟩)
      case ud c => cases h; exact .inl rfl
      case outOfBytes => cases h; exact .inr (.inl rfl)
      case refused r => cases h

/-- A page fault of an instruction is one that the oracle answers for some byte (R61, R265). -/
theorem accessByte_of_exec_pf {i : Instr} {s : State} {c : BitVec 32} {ip a : QWord}
    (h : exec i s = .fault (.pf c ip a)) : ∃ kind b, s.accessByte kind b = .pf c a := by
  obtain ⟨e, hf, hcheck | ⟨acc, -, haccess⟩⟩ := exec_fault_cases h <;> cases eq_pf_of_exnFault hf.symm
  · exact absurd hcheck (Gate.check_ne_pf _ _ _ _)
  · rcases memAccess_raise_cases haccess with he | he | ⟨he, -⟩ | ⟨b, _, _, he, hb⟩ <;> cases he
    exact ⟨acc.kind, b, hb⟩

/-- The fault of a step is the record, at the unchanged RIP, of some exception (R282). -/
theorem step_fault_eq_exnFault {s : State} {f : Fault} (h : step s = .fault f) : ∃ e, f = exnFault e s.rip := by
  rcases step_fault_cases h with hud | hgp | ⟨i, hi⟩
  · exact ⟨.ud, hud⟩
  · exact ⟨.gp, hgp⟩
  · obtain ⟨e, he, -⟩ := exec_fault_cases hi
    exact ⟨e, he⟩

/-- Settles O45: the first part computes; a step's fault is the record of an exception, and only an instruction, by
its access, raises #PF. -/
theorem faultRecord : Obligations.FaultRecord := by
  refine ⟨fun s => ⟨⟨rfl, rfl, rfl⟩, ⟨rfl, rfl, rfl⟩, ⟨rfl, rfl⟩, ⟨rfl, rfl⟩, fun _ _ => ⟨rfl, rfl⟩,
    ⟨rfl, rfl, rfl⟩, ⟨rfl, rfl⟩⟩, fun s f h => ⟨?rip, ?code, ?page⟩⟩
  case rip =>
    obtain ⟨e, rfl⟩ := step_fault_eq_exnFault h
    exact exnFault_rip e s.rip
  case code =>
    obtain ⟨e, rfl⟩ := step_fault_eq_exnFault h
    exact faultErrorCode_exnFault
  case page =>
    rintro c ip a rfl
    rcases step_fault_cases h with hud | hgp | ⟨i, hi⟩
    · cases hud
    · cases hgp
    · exact accessByte_of_exec_pf hi

end Sys2Proof.Machine
end
